-- ==== Sys2Proof/Word.lean ====
section
/-! DEFINITION. The two bit-vector types of the model: a byte as it crosses a pin, and a badge number. -/

namespace Sys2Proof

/-- One byte of a frame, a reader record, a panel message or the configuration image (12_formats.md). -/
abbrev Byte := BitVec 8

/-- A badge number, 32 bits (00_scope.md, "badge"). -/
abbrev Badge := BitVec 32

end Sys2Proof
end

