-- ==== Sys2Proof/Syntax.lean ====
section
/-! DEFINITION. The commands of the K226: one constructor of `Instr` per row of spec/opcode_table.json.
The table gives its rows no operands; the operands below are what the spec's rule for the row reads (log 4, 5, 7). -/

namespace Sys2Proof

/-- The two counters of the Counting Unit (R73). -/
inductive CounterId where
  | grind
  | flow
deriving DecidableEq, Repr

/-- The four heat levels (R28). -/
inductive HeatLevel where
  | off
  | keep
  | half
  | full
deriving DecidableEq, Repr

/-- The clean state a CLAIM carries (R4, R29). -/
inductive CleanState where
  | none
  | waiting
  | cleaning
  | suspended
deriving DecidableEq, Repr

/-- The reason a DISPUTE carries (R4). -/
inductive DisputeReason where
  | budget
  | cleanLimit
  | badge
deriving DecidableEq, Repr

/-- The five frame kinds of the Share Line (R4). -/
inductive FrameKind where
  | join
  | claim
  | hold
  | need
  | dispute
deriving DecidableEq, Repr

/-- The body of a JOIN: budget (pu), clean limit, lease (s) (R4). -/
structure JoinBody where
  budget : Nat
  cleanLimit : Nat
  lease : Nat
deriving DecidableEq, Repr

/-- The body of a CLAIM; `raise` is the marker RAISE (R4). -/
structure ClaimBody where
  seq : Nat
  raise : Bool
  heat : HeatLevel
  heatUnits : Nat
  otherUnits : Nat
  clean : CleanState
  lease : Nat
deriving DecidableEq, Repr

/-- The body of a HOLD; `take` is the action TAKE, its negation FREE (R4). -/
structure HoldBody where
  seq : Nat
  take : Bool
  badge : Badge
  lease : Nat
deriving DecidableEq, Repr

/-- The body of a NEED: units short (pu) and hold time (s) (R4). -/
structure NeedBody where
  seq : Nat
  units : Nat
  holdTime : Nat
deriving DecidableEq, Repr

/-- The body of a DISPUTE (R4). -/
structure DisputeBody where
  seq : Nat
  target : Nat
  targetSeq : Nat
  reason : DisputeReason
deriving DecidableEq, Repr

/-- A frame's kind with its body fields (R4). -/
inductive Frame where
  | join (b : JoinBody)
  | claim (b : ClaimBody)
  | hold (b : HoldBody)
  | need (b : NeedBody)
  | dispute (b : DisputeBody)
deriving DecidableEq, Repr

/-- A character on RD_RX: the bit times for which the line was idle before its start bit, its data, and whether its stop bit was
low (R140). -/
structure ReaderChar where
  idle : Nat
  data : Byte
  stopLow : Bool
deriving DecidableEq, Repr

/-- The commands: the rows of spec/opcode_table.json, in the table's order. -/
inductive Instr where
  /-- The supply comes up; `resetAsserted` is the level of RESET_N at that moment (R202). -/
  | supplyUp (resetAsserted : Bool)
  /-- RESET_N is asserted; `ramIntact` says that the RAM kept its content, so the retain mark still reads valid (R203). -/
  | resetNAssert (ramIntact : Bool)
  /-- RESET_N is negated and the image read begins (R202, R203). -/
  | resetNNegate
  /-- One read of the 256-byte image completes with these bytes (R204). -/
  | configReadDone (image : List Byte)
  /-- A low level reaches 12 bt (R7). -/
  | lineBreakDetected
  /-- The break ends and the header window opens (R8). -/
  | syncBreakEnd
  /-- The header window closes with no start bit (R8). -/
  | syncWindowClose
  /-- A character is taken: its data byte, its flag bit, and whether its stop bit was low (R2, R8 to R10). -/
  | rxCharacter (data : Byte) (flag : Bool) (framingError : Bool)
  /-- More than 22 bt of idle inside a synchronised frame (R9). -/
  | rxIdleTimeout
  /-- A whole CLAIM of station `sender` ends (R24). -/
  | claimDelivered (sender : Nat) (body : ClaimBody)
  /-- A whole HOLD of station `sender` ends (R25). -/
  | holdDelivered (sender : Nat) (body : HoldBody)
  /-- A whole JOIN of station `sender` ends (R27). -/
  | joinDelivered (sender : Nat) (body : JoinBody)
  /-- A whole DISPUTE of station `sender` ends (R39). -/
  | disputeDelivered (sender : Nat) (body : DisputeBody)
  /-- A whole NEED of station `sender` ends (R45). -/
  | needDelivered (sender : Nat) (body : NeedBody)
  /-- A whole frame with the own station number, not sent by this station, ends (R11). -/
  | sameStationFrame (frame : Frame)
  /-- The idle timer reaches the access gap of a slot (R16). -/
  | accessWon
  /-- A bit of the own frame reads back other than sent (R18). -/
  | collision
  /-- The own frame ends without collision (R21). -/
  | framePosted
  /-- The raise-guard count reaches 160 bt (R17). -/
  | guardEnd
  /-- The time base reaches the lease deadline of this station's entry (R26). -/
  | leaseExpiry (station : Nat)
  /-- The time base reaches the hold deadline of this station's held badge (R26). -/
  | holdDeadlineExpiry (station : Nat)
  /-- The denied-at time is 1 s old (R37). -/
  | retryTimer
  /-- A renewal period has passed (R40). -/
  | renewalDue
  /-- The time base reaches the stale mark's clear time (R43). -/
  | staleClearTime
  /-- The NEED conditions hold (R44). -/
  | needUnmetTimer
  /-- The time base reaches the stepped-down deadline (R46). -/
  | stepDownEnd
  /-- A taken change of the encoder: the new levels of ENC_A and ENC_B, high or not (R70, R71). -/
  | encoderStep (encA : Bool) (encB : Bool)
  /-- A taken rising level on FLOW (R72). -/
  | flowEdge
  /-- The spin-up time of a loss monitor expires (R79). -/
  | spinUpExpiry (counter : CounterId)
  /-- The loss time passes since the last edge (R80, R81). -/
  | lossTimeExpiry (counter : CounterId)
  /-- A timed run reaches its end time (R82). -/
  | timedRunEnd (counter : CounterId)
  /-- The grind power wait ends (R92). -/
  | grindPowerTimeout
  /-- LID_OPEN changes: true is the row's assertion, false its negation (R95; log 4). -/
  | lidOpenAssert (asserted : Bool)
  /-- GR_OVLD changes: true is the row's assertion, false its negation (R96; log 4). -/
  | grOvldAssert (asserted : Bool)
  /-- BR_TOP or BR_BOT changes: both levels afterwards, asserted or not (R106). -/
  | brewerEndSwitch (top : Bool) (bottom : Bool)
  /-- A move deadline is reached (R106). -/
  | brewerMotionTimeout
  /-- The extraction limit passes in B_PREWET (R109). -/
  | prewetLimitExpiry
  /-- The soak timer has run the soak time (R109). -/
  | soakTimerExpiry
  /-- The heat wait deadline of a cup run is reached (R110). -/
  | heatWaitTimeout
  /-- The extraction deadline is reached (R111). -/
  | extractionDeadline
  /-- The drain time has passed (R107). -/
  | drainTimerExpiry
  /-- The eject deadline is reached while the run waits for the drawer (R112). -/
  | ejectTimeout
  /-- DRAWER_IN changes (R112, R114, R116). -/
  | drawerInChange (inPlace : Bool)
  /-- The conditions of a recovery eject hold (R114). -/
  | recoveryEjectStart
  /-- BOIL_COLD changes (R117). -/
  | boilColdChange (cold : Bool)
  /-- BOIL_OVHT changes: true is the row's assertion, false its negation (R118; log 4). -/
  | boilOvhtAssert (asserted : Bool)
  /-- The standby timer reaches the standby idle time (R120). -/
  | standbyTimeout
  /-- An ORDER request with its four body bytes (R124). -/
  | order (recipe : Byte) (size : Byte) (strength : Byte) (payMode : Byte)
  /-- A CANCEL request (R135). -/
  | cancel (number : Byte)
  /-- The tap deadline of this order is reached (R128). -/
  | tapDeadline (number : Nat)
  /-- A PRESENT record (R141, R144). -/
  | readerPresent (badge : Badge) (balance : Nat) (cardSeq : Nat)
  /-- A REMOVED record (R146). -/
  | readerRemoved (badge : Badge)
  /-- A WRITTEN record (R154). -/
  | readerWritten (badge : Badge) (newSeq : Nat)
  /-- A WRITE_FAILED record; `rejected` is the reason REJECTED, its negation REMOVED (R155). -/
  | readerWriteFailed (badge : Badge) (rejected : Bool)
  /-- The characters of an ended reader record as they came on RD_RX (R140; log 23). -/
  | readerRecordBad (chars : List ReaderChar)
  /-- RD_TX has been idle for three character times (R142). -/
  | readerSendStart
  /-- The reply deadline of a WRITE passes (R155). -/
  | writeReplyTimeout
  /-- The hold wait deadline passes (R150). -/
  | holdWaitTimeout
  /-- A refresh of the settled hold falls due (R151). -/
  | holdRefreshDue
  /-- The settled hold has gone one hold lease without a posted TAKE (R151). -/
  | holdLapse
  /-- The re-tap deadline passes (R158). -/
  | retapDeadline
  /-- A LOG_READ request (R166). -/
  | logRead
  /-- A LOG_ACK request naming a log sequence (R167). -/
  | logAck (sequence : Nat)
  /-- The start conditions hold (R177). -/
  | cycleStart
  /-- The deadline of a FLUSH step is reached (R180). -/
  | flushDeadline
  /-- The deadline of a HEAT_WAIT step is reached (R180). -/
  | cleanHeatWaitTimeout
  /-- A CSOAK or DRAIN step timer reaches its time (R180). -/
  | stepTimerExpiry
  /-- A PROMPT_DONE request (R182). -/
  | promptDone
  /-- The prompt deadline is reached (R182). -/
  | promptTimeout
  /-- The suspend limit passes (R188). -/
  | suspendLimitExpiry
  /-- A CLEAN_REQUEST naming a kind by its code (R190). -/
  | cleanRequest (kind : Byte)
  /-- A CLEAN_CANCEL request (R190). -/
  | cleanCancel
  /-- A STATUS request (R197). -/
  | status
  /-- A READ_REPLY transfer: the length and check bytes clocked in, and how many bytes were clocked after them (R193). -/
  | readReply (length : Byte) (check : Byte) (clocked : Nat)
  /-- A NOTICE_READ request (R195). -/
  | noticeRead
  /-- A SERVICE_ENTER request (R199). -/
  | serviceEnter
  /-- A SERVICE_LEAVE request (R200). -/
  | serviceLeave
  /-- A SERVICE_RESET request (R201). -/
  | serviceReset
  /-- A SERVICE_DRIVE request: channel code and value (R65). -/
  | serviceDrive (channel : Byte) (value : Byte)
  /-- A PART_ID request (R208). -/
  | partId
  /-- A panel transfer given by the bytes clocked in, judged by R192 (log 24). -/
  | panelTransferInvalid (bytes : List Byte)
  /-- The line goes low in HUNT; `stillLow` says that it has not yet returned high (R15, R17; log 7). -/
  | lineLowLevel (stillLow : Bool)
deriving DecidableEq, Repr

end Sys2Proof
end

