-- ==== Sys2Proof/WellFormed.lean ====
section
/-! DEFINITION. Which commands are well formed: every operand lies within the range the spec gives its field. -/

namespace Sys2Proof

/-- A value of one byte (12_formats.md). -/
def isByte (n : Nat) : Bool := n < 256

/-- A value of two bytes (12_formats.md). -/
def isHalfword (n : Nat) : Bool := n < 65536

/-- Station numbers are 1 to 15 (00_scope.md, Numbering). -/
def isStation (n : Nat) : Bool := 1 ≤ n && n ≤ 15

/-- Order numbers are 1 to 255 (00_scope.md, Numbering). -/
def isOrderNumber (n : Nat) : Bool := 1 ≤ n && n ≤ 255

/-- The body of a frame that can have been received: every field fits its byte, and the field tests of R207 hold. -/
def Frame.wf : Frame → Bool
  | .join b => isByte b.budget && isByte b.cleanLimit && isByte b.lease
  | .claim b => isByte b.seq && isByte b.heatUnits && isByte b.otherUnits && isByte b.lease
  | .hold b => isByte b.seq && isByte b.lease
  | .need b => isByte b.seq && isByte b.units && 1 ≤ b.units && isByte b.holdTime
  | .dispute b => isByte b.seq && isByte b.target && 1 ≤ b.target && isByte b.targetSeq

/-- The well-formed commands. -/
def Instr.wf : Instr → Bool
  | .configReadDone image => image.length == 256
  | .claimDelivered sender body => isStation sender && (Frame.claim body).wf
  | .holdDelivered sender body => isStation sender && (Frame.hold body).wf
  | .joinDelivered sender body => isStation sender && (Frame.join body).wf
  | .disputeDelivered sender body => isStation sender && (Frame.dispute body).wf
  | .needDelivered sender body => isStation sender && (Frame.need body).wf
  | .sameStationFrame frame => frame.wf
  | .leaseExpiry station => isStation station
  | .holdDeadlineExpiry station => isStation station
  | .tapDeadline number => isOrderNumber number
  | .readerPresent _ balance cardSeq => isHalfword balance && isHalfword cardSeq
  | .readerWritten _ newSeq => isHalfword newSeq
  | .logAck sequence => isHalfword sequence
  | .supplyUp _ | .resetNAssert _ | .resetNNegate | .lineBreakDetected | .syncBreakEnd | .syncWindowClose
  | .rxCharacter _ _ _ | .rxIdleTimeout | .accessWon | .collision | .framePosted | .guardEnd | .retryTimer
  | .renewalDue | .staleClearTime | .needUnmetTimer | .stepDownEnd | .encoderStep _ _ | .flowEdge
  | .spinUpExpiry _ | .lossTimeExpiry _ | .timedRunEnd _ | .grindPowerTimeout | .lidOpenAssert _
  | .grOvldAssert _ | .brewerEndSwitch _ _ | .brewerMotionTimeout | .prewetLimitExpiry | .soakTimerExpiry
  | .heatWaitTimeout | .extractionDeadline | .drainTimerExpiry | .ejectTimeout | .drawerInChange _
  | .recoveryEjectStart | .boilColdChange _ | .boilOvhtAssert _ | .standbyTimeout | .order _ _ _ _
  | .cancel _ | .readerRemoved _ | .readerWriteFailed _ _ | .readerRecordBad _ | .readerSendStart
  | .writeReplyTimeout | .holdWaitTimeout | .holdRefreshDue | .holdLapse | .retapDeadline | .logRead
  | .cycleStart | .flushDeadline | .cleanHeatWaitTimeout | .stepTimerExpiry | .promptDone | .promptTimeout
  | .suspendLimitExpiry | .cleanRequest _ | .cleanCancel | .status | .readReply _ _ _ | .noticeRead
  | .serviceEnter | .serviceLeave | .serviceReset | .serviceDrive _ _ | .partId | .panelTransferInvalid _
  | .lineLowLevel _ => true

end Sys2Proof
end

