-- ==== Sys2Proof/Config.lean ====
section
/-! DEFINITION. The free values: what the spec leaves unstated about the bytes of the STATUS body (12_formats.md).
None has a body, so no proof can rest on a value of one. -/

namespace Sys2Proof

/-- The bytes of the STATUS body that pack several fields and whose bit places the Formats chapter does not give (log 14). -/
inductive PackedByte where
  | holdMarks
  | permissions
  | faultLatches
  | brewingFlags
  | orderModeStateMarks
  | paymentMarks
  | dueAndHeld
  | cycleMarksAndLatch
deriving DecidableEq, Repr

/-- How such a byte is laid out, as a function of the codes of the fields it packs (log 14). -/
opaque Config.packedByte : PackedByte → List Nat → Byte

/-- What a field of `bytes` bytes shows for a number too large for it (log 15). -/
opaque Config.wideField (bytes : Nat) (value : Nat) : Nat

/-- The presence bit of the own entry in STATUS, which no frame fills (R23; log 16). -/
opaque Config.ownEntryLive : Bool

end Sys2Proof
end

