-- ==== Sys2Proof/Machine/State.lean ====
section
/-! DEFINITION. The state of the K226, block by block, as plain data, and its value right after power-on.
Docstrings cite the rule of spec/ that names the item; INVENTORY.md lists them all with their reset values. -/

namespace Sys2Proof.Machine

/-! ### Why a step may stop -/

/-- No command of this block stops with a fault: the spec's latches, refusals and notices are state and replies (INVENTORY.md, Faults). -/
inductive Fault where
deriving DecidableEq, Repr

/-- Why a command has no meaning. -/
inductive Refusal where
  /-- A command not yet modelled, raised by Dispatch alone; safe. No arm uses it. -/
  | notModelled (mnemonic : String)
deriving DecidableEq, Repr

/-! ### Shared names -/

/-- Station modes (R198). -/
inductive Mode where
  | start
  | serving
  | service
  | halted
deriving DecidableEq, Repr

/-- The reason byte of 12_formats.md: the reasons of failed grinds and cup runs, of aborted cycles and of stop events. -/
inductive Reason where
  | lidOpen
  | grinderOverload
  | noPower
  | lineLost
  | grindRefused
  | heatTimeout
  | drawerTimeout
  | brewerStuck
  | overheat
  | grinderFault
  | outOfService
  | cancelled
  | promptTimeout
  | noSlot
  | fault
  | notServing
deriving DecidableEq, Repr

/-- Cleaning kinds (R175). -/
inductive CleanKind where
  | rinse
  | clean
  | descale
deriving DecidableEq, Repr

/-- Drive phases, in the order of R54. -/
inductive Phase where
  | idle
  | prewet
  | soak
  | extract
  | drain
  | eject
  | flush
  | csoak
  | motion
deriving DecidableEq, Repr

/-- The mode of a counter run and of its capture (R73, R77). -/
inductive RunMode where
  | counted
  | timed
deriving DecidableEq, Repr

/-- What a station claims (R28). -/
structure Composition where
  base : Bool
  grind : Bool
  clean : Bool
  heat : HeatLevel
deriving DecidableEq, Repr

/-- The empty composition (R29). -/
def Composition.empty : Composition := { base := false, grind := false, clean := false, heat := .off }

/-! ### The loaded configuration (12_formats.md, Configuration Image) -/

/-- Stop levels of a valve (R62). -/
inductive StopLevel where
  | closed
  | opened
  | hold
deriving DecidableEq, Repr

/-- A row of the phase table; a valve is true when OPEN (R54). -/
structure PhaseRow where
  pump : Nat
  valveBrew : Bool
  valveDrain : Bool
  valveRinse : Bool
deriving DecidableEq, Repr

/-- A recipe: dose (0.1 g), prewet (ml), soak (s), volumes (ml) and prices (cu, absent where the image says so). -/
structure Recipe where
  dose : Nat
  prewet : Nat
  soak : Nat
  volumeS : Nat
  volumeM : Nat
  volumeL : Nat
  priceS : Option Nat
  priceM : Option Nat
  priceL : Option Nat
deriving DecidableEq, Repr

/-- Encoder modes (R70). -/
inductive EncoderMode where
  | x1
  | x2
  | x4
deriving DecidableEq, Repr

/-- Bit rates of the Share Line (R1). -/
inductive BitRate where
  | b19200
  | b38400
  | b57600
  | b115200
deriving DecidableEq, Repr

/-- The loaded configuration: every field of the image map. Times keep the image's units, given in the names where not ms. -/
structure Cfg where
  version : Nat
  station : Nat
  bitRate : BitRate
  budget : Nat
  cleanLimit : Nat
  leaseS : Nat
  holdLeaseS : Nat
  needHoldS : Nat
  soloAllowance : Nat
  baseUnits : Nat
  motorUnits : Nat
  heaterRated : Nat
  keepPercent : Nat
  grinderDuty : Nat
  encoderMode : EncoderMode
  countsPerDecigram : Nat
  flowPer10ml : Nat
  spinUp : Nat
  grindLoss : Nat
  flowLoss : Nat
  initialGrindRate : Nat
  initialFlowRate : Nat
  grindPowerWaitS : Nat
  heatWaitS : Nat
  extractionLimitS : Nat
  drainTimeS : Nat
  ejectWaitS : Nat
  motionLimitS : Nat
  tapWindowS : Nat
  retapWindowS : Nat
  promptTimeoutMin : Nat
  suspendLimitMin : Nat
  standbyMin : Nat
  stopBrew : StopLevel
  stopDrain : StopLevel
  stopRinse : StopLevel
  phases : List PhaseRow
  rinseThreshold : Nat
  cleanThreshold : Nat
  descaleThresholdL : Nat
  drawerLimit : Nat
  watermark : Nat
  startRinse : Bool
  freeVend : Bool
  recipes : List Recipe
deriving DecidableEq, Repr

/-- What the accessors give while no configuration is loaded. Every block is inert then; valves stop CLOSED (R64). -/
def Cfg.blank : Cfg :=
  { version := 0, station := 0, bitRate := .b19200, budget := 0, cleanLimit := 0, leaseS := 0, holdLeaseS := 0,
    needHoldS := 0, soloAllowance := 0, baseUnits := 0, motorUnits := 0, heaterRated := 0, keepPercent := 0,
    grinderDuty := 0, encoderMode := .x1, countsPerDecigram := 0, flowPer10ml := 0, spinUp := 0, grindLoss := 0,
    flowLoss := 0, initialGrindRate := 0, initialFlowRate := 0, grindPowerWaitS := 0, heatWaitS := 0,
    extractionLimitS := 0, drainTimeS := 0, ejectWaitS := 0, motionLimitS := 0, tapWindowS := 0, retapWindowS := 0,
    promptTimeoutMin := 0, suspendLimitMin := 0, standbyMin := 0, stopBrew := .closed, stopDrain := .closed,
    stopRinse := .closed, phases := [], rinseThreshold := 0, cleanThreshold := 0, descaleThresholdL := 0,
    drawerLimit := 0, watermark := 0, startRinse := false, freeVend := false, recipes := [] }

/-! ### Line Access Unit (R1 to R22) -/

/-- A frame whose header has been accepted (R8, R9): the header byte's kind and sender, then what has been gathered. -/
structure RxFrame where
  kind : FrameKind
  sender : Nat
  length : Option Nat
  body : List Byte
  check : List Byte
deriving DecidableEq, Repr

/-- Receiver states (R7 to R10); off until the configuration has loaded (R22). -/
inductive Receiver where
  | off
  | hunt
  | sync (windowOpen : Bool)
  | body (f : RxFrame)
  | check (f : RxFrame)
deriving DecidableEq, Repr

/-- What an originator offers for a slot (R12). `mayRaise` tells a CLAIM offered for a rise or a retry from one the rules
call a PLAIN CLAIM (log 8). A HOLD TAKE carries the payment tag (R145). -/
inductive Offer where
  | join
  | claim (mayRaise : Bool)
  | need
  | dispute (target : Nat) (targetSeq : Nat) (reason : DisputeReason)
  | holdTake (badge : Badge) (tag : Nat)
  | holdFree (badge : Badge)
deriving DecidableEq, Repr

/-- A frame on the line: the sequence it carries and its content (R6, R16). -/
structure Sent where
  seq : Nat
  frame : Frame
deriving DecidableEq, Repr

/-- A slot of the transmit queue (R12). `again` is the again mark with the stored content; `sent` marks it in transmission. -/
structure TxSlot where
  offer : Offer
  attempts : Nat
  again : Option Offer
  sent : Option Sent
deriving DecidableEq, Repr

/-- `txBit` is the number of bit times that the frame in transmission has been on the line; it is read while one is (R3). -/
structure Lau where
  receiver : Receiver
  queue : List TxSlot
  txBit : Nat
  idleTimer : Nat
  intervalGuarded : Bool
  guard : Bool
  guardCount : Nat
  nextSeq : Nat
  sameStationArmed : Bool
deriving DecidableEq, Repr

/-! ### Share Table Unit (R23 to R50) -/

/-- A held badge of a share table entry (R23). -/
structure HeldBadge where
  badge : Badge
  seq : Nat
  deadline : Nat
deriving DecidableEq, Repr

/-- An entry of the share table (R23). -/
structure ShareEntry where
  live : Bool
  leaseDeadline : Nat
  lastSeq : Nat
  heat : HeatLevel
  heatUnits : Nat
  otherUnits : Nat
  clean : CleanState
  held : Option HeldBadge
  heardSinceStale : Bool
deriving DecidableEq, Repr

/-- An entry after a reset (R23). -/
def ShareEntry.absent : ShareEntry :=
  { live := false, leaseDeadline := 0, lastSeq := 0, heat := .off, heatUnits := 0, otherUnits := 0, clean := .none,
    held := none, heardSinceStale := true }

/-- A pending raise; `guarded` is the state GUARDED, its negation QUEUED (R29). `heldRise` marks a wish that rose while the
raise was pending (R30; log 39), `heldRetry` a retry point that came then (R37; log 9). -/
structure PendingRaise where
  target : Composition
  seq : Nat
  guarded : Bool
  heldRise : Bool
  heldRetry : Bool
deriving DecidableEq, Repr

inductive LineState where
  | joining
  | online
  | isolated
deriving DecidableEq, Repr

structure Stu where
  table : List ShareEntry
  posted : Composition
  confirmed : Composition
  pending : Option PendingRaise
  deniedAt : Option Nat
  stepDown : Option Nat
  lastClaimPosted : Nat
  lastRenewalDue : Nat
  heatWish : HeatLevel
  grindWish : Bool
  cleanWish : Bool
  stale : Bool
  staleClearTime : Nat
  awaited : List Nat
  fullLease : Bool
  lastJoinPosted : Option Nat
  effBudget : Nat
  effCleanLimit : Nat
  heardBudgets : List Nat
  heardCleanLimits : List Nat
  heardLeases : List Nat
  lineState : LineState
  unmetSince : Option Nat
  lastNeedPosted : Option Nat
deriving DecidableEq, Repr

/-! ### Drive Channel Unit (R51 to R68) -/

/-- Values of the channel BREWER (R51). -/
inductive BrewerDrive where
  | stop
  | up
  | down
deriving DecidableEq, Repr

/-- The four regulator states (R117). -/
inductive Regulator where
  | off
  | heating
  | ready
  | tripped
deriving DecidableEq, Repr

/-- The hold marks of the seven channels (R51). -/
structure HoldMarks where
  heater : Bool
  pump : Bool
  grinder : Bool
  brewer : Bool
  valveBrew : Bool
  valveDrain : Bool
  valveRinse : Bool
deriving DecidableEq, Repr

/-- All hold marks clear (R62, R64). -/
def HoldMarks.clear : HoldMarks :=
  { heater := false, pump := false, grinder := false, brewer := false, valveBrew := false, valveDrain := false, valveRinse := false }

/-- `pumpPeriod` and `grinderPeriod` are the duties in force in the 5 ms period in progress (R52; log 29). -/
structure Dcu where
  heater : Nat
  pump : Nat
  grinder : Bool
  brewer : BrewerDrive
  valveBrew : Bool
  valveDrain : Bool
  valveRinse : Bool
  holds : HoldMarks
  phase : Phase
  granted : HeatLevel
  grindPerm : Bool
  basePerm : Bool
  regulator : Regulator
  serviceGrind : Bool
  pumpPeriod : Nat
  grinderPeriod : Nat
deriving DecidableEq, Repr

/-! ### Counting Unit (R69 to R87) -/

inductive CounterRun where
  | idle
  | counting
  | timed
  | reached
deriving DecidableEq, Repr

inductive EndCause where
  | target
  | time
  | disarm
  | stop
deriving DecidableEq, Repr

inductive Owner where
  | grc
  | brc
  | clc
deriving DecidableEq, Repr

/-- Loss monitor states (R79). -/
inductive Monitor where
  | off
  | spinUp (since : Nat)
  | watch (lastEdge : Nat)
deriving DecidableEq, Repr

/-- A capture (R77). -/
structure Capture where
  count : Nat
  mode : RunMode
  cause : EndCause
  duration : Nat
deriving DecidableEq, Repr

/-- The empty capture (R77). -/
def Capture.empty : Capture := { count := 0, mode := .counted, cause := .stop, duration := 0 }

/-- A counter. `armedTimed` marks a run that was TIMED from its arming (R82). -/
structure Counter where
  count : Nat
  run : CounterRun
  target : Option Nat
  mode : RunMode
  owner : Option Owner
  startTime : Nat
  endTime : Option Nat
  armedTimed : Bool
  capture : Capture
  previous : Capture
  monitor : Monitor
  latch : Bool
  rate : Nat
deriving DecidableEq, Repr

/-- A counter after power-on, with its rate record (R86). -/
def Counter.reset (rate : Nat) : Counter :=
  { count := 0, run := .idle, target := none, mode := .counted, owner := none, startTime := 0, endTime := none,
    armedTimed := false, capture := Capture.empty, previous := Capture.empty, monitor := .off, latch := false, rate := rate }

structure Cnu where
  grind : Counter
  flow : Counter
  skips : Nat
deriving DecidableEq, Repr

/-! ### Grind Controller (R88 to R102) -/

inductive GrindState where
  | idle
  | waitPower
  | run
  | stop
deriving DecidableEq, Repr

/-- The outcome of a grind (R101). -/
inductive GrindOutcome where
  | done
  | failed (r : Reason)
  | cancelled
deriving DecidableEq, Repr

/-- The fields of the grind in hand (R88). -/
structure GrindJob where
  order : Nat
  recipe : Nat
  strength : Nat
  target : Nat
deriving DecidableEq, Repr

structure Grc where
  state : GrindState
  job : Option GrindJob
  waitDeadline : Option Nat
  held : Option GrindOutcome
  overloads : Nat
  fault : Bool
  serviceWish : Bool
deriving DecidableEq, Repr

/-- The codes of a refused GRIND request (R90, R131). -/
inductive GrindRefusal where
  | busy
  | fault
  | notTop
  | noOrder
deriving DecidableEq, Repr

/-- The GRC's report of a grind (R101). -/
structure GrindReport where
  order : Nat
  outcome : GrindOutcome
  count : Nat
  mode : RunMode
  target : Nat
deriving DecidableEq, Repr

/-! ### Brew Controller (R103 to R121) -/

inductive UnitState where
  | idle
  | cup
  | step
  | recovery
deriving DecidableEq, Repr

inductive Position where
  | between
  | top
  | bottom
deriving DecidableEq, Repr

/-- The states of a cup run (R107). -/
inductive RunState where
  | home
  | grind
  | close
  | prewet
  | soak
  | heatWait
  | extract
  | drain
  | eject
deriving DecidableEq, Repr

/-- The pending outcome of a cup run (R107, R111). -/
inductive CupOutcome where
  | delivered
  | short
deriving DecidableEq, Repr

/-- How far the stop event that aborts a cup run has come: none yet, being reported, reported (R62, R113). -/
inductive StopStage where
  | notMade
  | reporting
  | made
deriving DecidableEq, Repr

/-- The cup run record (R107). `grindOver` marks that the grind report or refusal has come, `stop` is the stage of the abort's
stop event (R113), `waiting` that B_EJECT waits for the drawer (R112). -/
structure CupRun where
  order : Nat
  recipe : Nat
  size : Nat
  strength : Nat
  state : RunState
  grounds : Bool
  grind : Option GrindReport
  grindOver : Bool
  extraction : Option (Nat × RunMode)
  pending : Option CupOutcome
  abort : Option Reason
  cleanOut : Bool
  stop : StopStage
  waiting : Bool
  deadline : Option Nat
deriving DecidableEq, Repr

/-- The kinds of cleaning steps with their fixed amounts (R175): ml, s, strokes, s; PROMPT with its notice code (R182). -/
inductive StepKind where
  | heatWait
  | flush (ml : Nat)
  | csoak (seconds : Nat)
  | motion (strokes : Nat)
  | drain (seconds : Nat)
  | prompt (code : Nat)
deriving DecidableEq, Repr

/-- A step the BRC serves: its kind and, for MOTION, the strokes left to make (R104). -/
structure StepService where
  kind : StepKind
  strokesLeft : Nat
deriving DecidableEq, Repr

/-- A move in hand (R106). -/
structure Move where
  up : Bool
  deadline : Nat
deriving DecidableEq, Repr

/-- `recoveryUp` tells the legs of a recovery eject apart (R114). -/
structure Brc where
  unit : UnitState
  cupWaiting : Bool
  stepWaiting : Bool
  run : Option CupRun
  step : Option StepService
  recoveryUp : Bool
  position : Position
  move : Option Move
  retained : Bool
  pucks : Nat
  drawerLimit : Nat
  drawerIn : Bool
  regulator : Regulator
  heatWish : HeatLevel
  steppedDown : Bool
  standbySince : Option Nat
  standby : Bool
  stuck : Bool
  overheat : Bool
deriving DecidableEq, Repr

/-! ### Order Unit (R122 to R139) -/

inductive OrderState where
  | waitPay
  | ready
  | running
deriving DecidableEq, Repr

inductive GrindResult where
  | report (r : GrindReport)
  | refused (code : GrindRefusal)
deriving DecidableEq, Repr

/-- An order record (R122). Sizes are S 1, M 2, L 3 as in 12_formats.md. `badgePay` is the payment mode BADGE. -/
structure Order where
  number : Nat
  recipe : Nat
  size : Nat
  strength : Nat
  badgePay : Bool
  state : OrderState
  admitted : Nat
  tapDeadline : Option Nat
  windowExpired : Bool
  paying : Bool
  badge : Option Badge
  price : Nat
  debitSeq : Option Nat
  grind : Option GrindResult
deriving DecidableEq, Repr

structure Oru where
  queue : List Order
  nextNumber : Nat
  cupPending : Bool
deriving DecidableEq, Repr

/-! ### Payment Unit (R140 to R161) -/

/-- Reader receiver states (R140): `since` is the moment from which the idle of RD_RX counts, in units of 1/576000 s; a record
being gathered holds its characters, each with whether its stop bit was low. -/
inductive ReaderRx where
  | off
  | gap (since : Nat)
  | record (chars : List (Byte × Bool))
deriving DecidableEq, Repr

/-- Records to the reader (R142). -/
inductive ReaderOut where
  | write (badge : Badge) (expectedSeq : Nat) (newBalance : Nat)
  | signal (accept : Bool)
deriving DecidableEq, Repr

inductive PayState where
  | hold
  | writing
  | verify
deriving DecidableEq, Repr

inductive HoldStatus where
  | queued
  | guarded
  | settled
deriving DecidableEq, Repr

/-- The payment record (R143). `refreshBase` is the moment the next refresh period counts from (R151); `recipe` is that of
the target order, which the DEBIT carries also where the order has closed meanwhile (R154, R163; log 34). -/
structure Payment where
  state : PayState
  tag : Nat
  badge : Badge
  order : Option (Nat × Nat)
  recipe : Option Nat
  refundUsed : Option Nat
  deferred : Bool
  oldBalance : Nat
  expectedSeq : Nat
  newBalance : Nat
  hold : HoldStatus
  holdSeq : Option Nat
  taken : Bool
  lastTake : Nat
  refreshBase : Nat
  deferredSettle : Bool
  joinRefresh : Bool
  lapsed : Bool
  deadline : Option Nat
deriving DecidableEq, Repr

/-- An entry of the refund list (R159). -/
structure Refund where
  badge : Badge
  amount : Nat
  created : Nat
  inUse : Bool
deriving DecidableEq, Repr

/-- The payment state is P_IDLE while `payment` is none (R143). -/
structure Pyu where
  reader : ReaderRx
  sendQueue : List ReaderOut
  lastRecord : List Byte
  sendFreeAt : Nat
  payment : Option Payment
  tag : Nat
  lastNewSeq : Nat
  refunds : List Refund
deriving DecidableEq, Repr

/-! ### Purchase Log (R162 to R171) -/

inductive LogKind where
  | debit
  | creditBack
  | delivered
  | refundDue
  | unresolved
deriving DecidableEq, Repr

/-- A log entry (R162). -/
structure LogEntry where
  seq : Nat
  kind : LogKind
  badge : Badge
  amount : Nat
  order : Option Nat
  recipe : Option Nat
  grindMode : Option RunMode
  credit : Option Nat
  time : Nat
  epoch : Nat
  unlisted : Bool
deriving DecidableEq, Repr

structure Plg where
  log : List LogEntry
  nextSeq : Nat
  epoch : Nat
  reserve : Nat
  armed : Bool
deriving DecidableEq, Repr

/-! ### Cleaning Controller (R172 to R191) -/

/-- A mark for each cleaning kind (R173, R174). -/
structure KindMarks where
  rinse : Bool
  clean : Bool
  descale : Bool
deriving DecidableEq, Repr

inductive CycleState where
  | idle
  | waitSlot
  | run
  | prompt
  | suspended
deriving DecidableEq, Repr

/-- The cycle record (R176). -/
structure Cycle where
  kind : CleanKind
  step : Nat
  unitHeld : Bool
  stretch : Bool
  deadline : Option Nat
  resuming : Bool
deriving DecidableEq, Repr

/-- The resume record (R187). -/
structure Resume where
  kind : CleanKind
  step : Nat
  time : Nat
deriving DecidableEq, Repr

/-- `cycle` holds the record in CL_WAIT_SLOT, CL_RUN and CL_PROMPT; in CL_SUSPENDED the cycle is in `resume` (R176). -/
structure Clc where
  cupsSinceRinse : Nat
  cupsSinceClean : Nat
  waterSinceDescale : Nat
  residue : Nat
  due : KindMarks
  held : KindMarks
  state : CycleState
  cycle : Option Cycle
  resume : Option Resume
  rinseRequired : Bool
deriving DecidableEq, Repr

/-! ### Panel Link and Configuration Loader (R192 to R206) -/

/-- Notice kinds, in the order of their codes (12_formats.md). -/
inductive NoticeKind where
  | orderPaid
  | orderClosed
  | payDenied
  | payRetap
  | payMismatch
  | cleanDue
  | cleanPrompt
  | cleanDone
  | logWatermark
  | degraded
  | fault
  | lineTrouble
  | isolated
  | rejoined
  | configMismatch
  | drawerFull
deriving DecidableEq, Repr

/-- A notice (R194) with the detail bytes of 12_formats.md; the time is in whole seconds. -/
structure Notice where
  kind : NoticeKind
  order : Option Nat
  code : Nat
  detail1 : Nat
  detail2 : Nat
  time : Nat
deriving DecidableEq, Repr

/-- Results, in the order of their codes (12_formats.md). -/
inductive Result where
  | ok
  | badCheck
  | badRequest
  | configBad
  | notReady
  | notService
  | serviceMode
  | outOfService
  | rinseRequired
  | cleaning
  | badRecipe
  | badSize
  | badStrength
  | freeNotAllowed
  | queueFull
  | drawerFull
  | logFull
  | noSuchOrder
  | accepted
  | tooLate
  | ending
  | badSequence
  | noCycle
  | noPrompt
  | busy
  | badValue
  | noBase
  | grinderBlocked
deriving DecidableEq, Repr

/-- A reply in the slot (R192, R193): the request's kind byte, the result, the reply-lost flag, the body, and how many
notices it carries (R195). -/
structure Reply where
  kind : Byte
  result : Result
  lost : Bool
  body : List Byte
  notices : Nat
deriving DecidableEq, Repr

structure Plk where
  reply : Option Reply
  notices : List Notice
  noticesLost : Bool
  mode : Mode
  miso : List Byte
deriving DecidableEq, Repr

/-- Load results with the field number of RANGE (R204). -/
inductive LoadResult where
  | ok
  | blank
  | check
  | version
  | range (field : Nat)
deriving DecidableEq, Repr

/-- The image read in progress (R204). -/
inductive ImageRead where
  | none
  | first
  | second
deriving DecidableEq, Repr

/-- `coldStart` marks that no configuration has loaded since power-on (R84, R121; log 21). -/
structure Cfl where
  loaded : Option Cfg
  retainMark : Bool
  result : LoadResult
  reading : ImageRead
  coldStart : Bool
deriving DecidableEq, Repr

/-- Levels of the input lines: switches true when asserted, encoder lines true when high. `lineLow` is the level of SL_RX as last
reported, this station's own driving apart (R1; log 7). -/
structure Pins where
  lidOpen : Bool
  grOvld : Bool
  brTop : Bool
  brBot : Bool
  drawerIn : Bool
  boilCold : Bool
  boilOvht : Bool
  encA : Bool
  encB : Bool
  resetAsserted : Bool
  lineLow : Bool
deriving DecidableEq, Repr

/-! ### The machine -/

/-- The whole state. `timeBase` is in ms; `subMs` is the fraction of the running millisecond in units of 1/576000 s (log 1).
`pending` is the queue of waiting commands, first in first out. -/
structure State where
  timeBase : Nat
  subMs : Nat
  pins : Pins
  lau : Lau
  stu : Stu
  dcu : Dcu
  cnu : Cnu
  grc : Grc
  brc : Brc
  oru : Oru
  pyu : Pyu
  plg : Plg
  clc : Clc
  plk : Plk
  cfl : Cfl
  pending : List Instr
deriving DecidableEq, Repr

/-! ### Values at reset -/

def Pins.reset : Pins :=
  { lidOpen := false, grOvld := false, brTop := false, brBot := false, drawerIn := false, boilCold := false,
    boilOvht := false, encA := false, encB := false, resetAsserted := false, lineLow := false }

/-- R22. -/
def Lau.reset : Lau :=
  { receiver := .off, queue := [], txBit := 0, idleTimer := 0, intervalGuarded := false, guard := false,
    guardCount := 0, nextSeq := 0, sameStationArmed := true }

/-- R23, R27, R29, R30, R41, R44, R47. -/
def Stu.reset : Stu :=
  { table := List.replicate 15 ShareEntry.absent, posted := Composition.empty, confirmed := Composition.empty,
    pending := none, deniedAt := none, stepDown := none, lastClaimPosted := 0, lastRenewalDue := 0, heatWish := .off,
    grindWish := false, cleanWish := false, stale := false, staleClearTime := 0, awaited := [], fullLease := false,
    lastJoinPosted := none, effBudget := 0, effCleanLimit := 0, heardBudgets := [], heardCleanLimits := [],
    heardLeases := [], lineState := .joining, unmetSince := none, lastNeedPosted := none }

/-- R53, R54, R57, R64. -/
def Dcu.reset : Dcu :=
  { heater := 0, pump := 0, grinder := false, brewer := .stop, valveBrew := false, valveDrain := false,
    valveRinse := false, holds := HoldMarks.clear, phase := .idle, granted := .off, grindPerm := false,
    basePerm := false, regulator := .off, serviceGrind := false, pumpPeriod := 0, grinderPeriod := 0 }

/-- R86. -/
def Cnu.reset : Cnu := { grind := Counter.reset 1, flow := Counter.reset 1, skips := 0 }

/-- R88. -/
def Grc.reset : Grc :=
  { state := .idle, job := none, waitDeadline := none, held := none, overloads := 0, fault := false, serviceWish := false }

/-- R121. -/
def Brc.reset : Brc :=
  { unit := .idle, cupWaiting := false, stepWaiting := false, run := none, step := none, recoveryUp := false,
    position := .between, move := none, retained := false, pucks := 0, drawerLimit := 0, drawerIn := false,
    regulator := .off, heatWish := .off, steppedDown := false, standbySince := none, standby := false, stuck := false,
    overheat := false }

/-- R138. -/
def Oru.reset : Oru := { queue := [], nextNumber := 1, cupPending := false }

/-- R140, R142, R143, R161. -/
def Pyu.reset : Pyu :=
  { reader := .off, sendQueue := [], lastRecord := [], sendFreeAt := 0, payment := none, tag := 0, lastNewSeq := 0, refunds := [] }

/-- R169. -/
def Plg.reset : Plg := { log := [], nextSeq := 0, epoch := 0, reserve := 0, armed := false }

def KindMarks.clear : KindMarks := { rinse := false, clean := false, descale := false }

/-- R191. -/
def Clc.reset : Clc :=
  { cupsSinceRinse := 0, cupsSinceClean := 0, waterSinceDescale := 0, residue := 0, due := KindMarks.clear,
    held := KindMarks.clear, state := .idle, cycle := none, resume := none, rinseRequired := false }

/-- R193, R194, R198. -/
def Plk.reset : Plk := { reply := none, notices := [], noticesLost := false, mode := .start, miso := [] }

/-- R202, R204: the retain mark has been written and the first image read has begun, RESET_N being negated (log 3). -/
def Cfl.reset : Cfl := { loaded := none, retainMark := true, result := .ok, reading := .first, coldStart := true }

/-- The machine right after power-on (R202). -/
def State.reset : State :=
  { timeBase := 0, subMs := 0, pins := Pins.reset, lau := Lau.reset, stu := Stu.reset, dcu := Dcu.reset,
    cnu := Cnu.reset, grc := Grc.reset, brc := Brc.reset, oru := Oru.reset, pyu := Pyu.reset, plg := Plg.reset,
    clc := Clc.reset, plk := Plk.reset, cfl := Cfl.reset, pending := [] }

/-! ### One update per block -/

def State.onPins (f : Pins → Pins) (s : State) : State := { s with pins := f s.pins }
def State.onLau (f : Lau → Lau) (s : State) : State := { s with lau := f s.lau }
def State.onStu (f : Stu → Stu) (s : State) : State := { s with stu := f s.stu }
def State.onDcu (f : Dcu → Dcu) (s : State) : State := { s with dcu := f s.dcu }
def State.onCnu (f : Cnu → Cnu) (s : State) : State := { s with cnu := f s.cnu }
def State.onGrc (f : Grc → Grc) (s : State) : State := { s with grc := f s.grc }
def State.onBrc (f : Brc → Brc) (s : State) : State := { s with brc := f s.brc }
def State.onOru (f : Oru → Oru) (s : State) : State := { s with oru := f s.oru }
def State.onPyu (f : Pyu → Pyu) (s : State) : State := { s with pyu := f s.pyu }
def State.onPlg (f : Plg → Plg) (s : State) : State := { s with plg := f s.plg }
def State.onClc (f : Clc → Clc) (s : State) : State := { s with clc := f s.clc }
def State.onPlk (f : Plk → Plk) (s : State) : State := { s with plk := f s.plk }
def State.onCfl (f : Cfl → Cfl) (s : State) : State := { s with cfl := f s.cfl }

end Sys2Proof.Machine
end

