-- ==== Sys2Proof/Machine/Operands.lean ====
section
/-! DEFINITION. The encodings of 12_formats.md: numbers as bytes, the frame check, frames of the Share Line, reader
records, requests and results of the panel link, and the configuration image. -/

namespace Sys2Proof.Machine

/-! ### Numbers as bytes: most significant byte first -/

/-- A byte of a number. -/
def byteOf (n : Nat) : Byte := BitVec.ofNat 8 n

/-- A field of one byte; a number too large for it is sent as a free value (log 15). -/
def field1 (n : Nat) : List Byte :=
  let v := if n < 256 then n else Config.wideField 1 n
  [byteOf v]

/-- A field of two bytes. -/
def field2 (n : Nat) : List Byte :=
  let v := if n < 65536 then n else Config.wideField 2 n
  [byteOf (v / 256), byteOf v]

/-- A field of four bytes. -/
def field4 (n : Nat) : List Byte :=
  let v := if n < 4294967296 then n else Config.wideField 4 n
  [byteOf (v / 16777216), byteOf (v / 65536), byteOf (v / 256), byteOf v]

/-- A badge number as four bytes. -/
def badgeBytes (b : Badge) : List Byte := field4 b.toNat

/-- The number of a list of bytes, the first the most significant. -/
def numberOf (bs : List Byte) : Nat := bs.foldl (fun n b => n * 256 + b.toNat) 0

/-- The badge number of four bytes. -/
def badgeOf (bs : List Byte) : Badge := BitVec.ofNat 32 (numberOf bs)

/-- An optional number, 0 when absent (12_formats.md). -/
def orZero (o : Option Nat) : Nat := o.getD 0

/-- A flag as 1 or 0. -/
def flagCode (b : Bool) : Nat := if b then 1 else 0

/-- The sum of bytes modulo 256. -/
def sumBytes (bs : List Byte) : Byte := bs.foldl (· + ·) 0#8

/-- The check byte that makes the sum of the whole message 0 modulo 256 (R192). -/
def zeroSumCheck (bs : List Byte) : Byte := 0#8 - sumBytes bs

/-! ### The frame check (R5, R207) -/

/-- One bit of the check: it is combined with bit 15, the register is shifted toward bit 15, and 1021 hex is combined in
when the bit that left was 1. -/
def crcBit (reg : Nat) (bit : Bool) : Nat :=
  let out := (reg / 32768 == 1) != bit
  let shifted := (reg * 2) % 65536
  if out then Nat.xor shifted 0x1021 else shifted

/-- The eight bits of a byte, bit 7 first. -/
def crcByte (reg : Nat) (b : Byte) : Nat :=
  let n := b.toNat
  crcBit (crcBit (crcBit (crcBit (crcBit (crcBit (crcBit (crcBit reg (n / 128 % 2 == 1)) (n / 64 % 2 == 1))
    (n / 32 % 2 == 1)) (n / 16 % 2 == 1)) (n / 8 % 2 == 1)) (n / 4 % 2 == 1)) (n / 2 % 2 == 1)) (n % 2 == 1)

/-- The 16-bit check of a sequence of bytes. -/
def crc16 (bs : List Byte) : Nat := bs.foldl crcByte 65535

/-! ### Frames of the Share Line (R3, R4, R207) -/

def frameKindCode : FrameKind → Nat
  | .join => 1
  | .claim => 2
  | .hold => 3
  | .need => 4
  | .dispute => 5

def frameKindOfCode : Nat → Option FrameKind
  | 1 => some .join
  | 2 => some .claim
  | 3 => some .hold
  | 4 => some .need
  | 5 => some .dispute
  | _ => none

/-- The one body length of each kind. -/
def frameKindLength : FrameKind → Nat
  | .join => 3
  | .claim => 5
  | .hold => 7
  | .need => 3
  | .dispute => 4

def frameKind (f : Frame) : FrameKind :=
  match f with
  | .join _ => .join
  | .claim _ => .claim
  | .hold _ => .hold
  | .need _ => .need
  | .dispute _ => .dispute

def heatCode : HeatLevel → Nat
  | .off => 0
  | .keep => 1
  | .half => 2
  | .full => 3

def heatLevelOfCode : Nat → HeatLevel
  | 0 => .off
  | 1 => .keep
  | 2 => .half
  | _ => .full

def cleanStateCode : CleanState → Nat
  | .none => 0
  | .waiting => 1
  | .cleaning => 2
  | .suspended => 3

def cleanStateOfCode : Nat → CleanState
  | 0 => .none
  | 1 => .waiting
  | 2 => .cleaning
  | _ => .suspended

def disputeReasonCode : DisputeReason → Nat
  | .budget => 1
  | .cleanLimit => 2
  | .badge => 3

/-- The state byte of a CLAIM: bit 0 the marker, bits 2 and 1 the heat level, bits 4 and 3 the clean state. -/
def claimStateByte (b : ClaimBody) : Nat :=
  flagCode b.raise + 2 * heatCode b.heat + 8 * cleanStateCode b.clean

/-- The body bytes of a frame, in order. -/
def frameBody : Frame → List Byte
  | .join b => field1 b.budget ++ field1 b.cleanLimit ++ field1 b.lease
  | .claim b => field1 b.seq ++ field1 (claimStateByte b) ++ field1 b.heatUnits ++ field1 b.otherUnits ++ field1 b.lease
  | .hold b => field1 b.seq ++ field1 (if b.take then 1 else 2) ++ badgeBytes b.badge ++ field1 b.lease
  | .need b => field1 b.seq ++ field1 b.units ++ field1 b.holdTime
  | .dispute b => field1 b.seq ++ field1 b.target ++ field1 b.targetSeq ++ field1 (disputeReasonCode b.reason)

/-- The data bytes of a whole frame as the LAU sends it: header, length, body, check (R3, R5). -/
def frameBytes (station : Nat) (f : Frame) : List Byte :=
  let head := [byteOf (frameKindCode (frameKind f) * 16 + station), byteOf (frameKindLength (frameKind f))] ++ frameBody f
  let c := crc16 head
  head ++ [byteOf (c / 256), byteOf c]

/-- The bits of a character in the order sent, high true: start bit, data least significant first, flag, stop bit (R2). -/
def charBits (flag : Bool) (data : Byte) : List Bool := false :: (List.range 8).map data.getLsbD ++ [flag, true]

/-- The bits of a whole frame as the LAU sends it: 14 bt low, 2 bt high, the header with flag 1, the rest with flag 0 (R3). -/
def frameBits (station : Nat) (f : Frame) : List Bool :=
  List.replicate 14 false ++ List.replicate 2 true
    ++ match frameBytes station f with
      | [] => []
      | header :: rest => charBits true header ++ rest.flatMap (charBits false)

/-- The fields of a received body that fits its kind, or none where a field test of R207 fails. -/
def frameOfBody (kind : FrameKind) (body : List Byte) : Option Frame :=
  let ns := body.map BitVec.toNat
  match kind, ns with
  | .join, [budget, limit, lease] => some (.join { budget := budget, cleanLimit := limit, lease := lease })
  | .claim, [seq, st, heat, other, lease] =>
    if st / 32 = 0 then
      some (.claim { seq := seq, raise := st % 2 == 1, heat := heatLevelOfCode (st / 2 % 4), heatUnits := heat,
                     otherUnits := other, clean := cleanStateOfCode (st / 8 % 4), lease := lease })
    else none
  | .hold, [seq, action, b3, b2, b1, b0, lease] =>
    if action = 1 ∨ action = 2 then
      some (.hold { seq := seq, take := action == 1, lease := lease,
                    badge := BitVec.ofNat 32 (((b3 * 256 + b2) * 256 + b1) * 256 + b0) })
    else none
  | .need, [seq, units, time] => if units = 0 then none else some (.need { seq := seq, units := units, holdTime := time })
  | .dispute, [seq, target, targetSeq, reason] =>
    if target = 0 then none
    else match reason with
      | 1 => some (.dispute { seq := seq, target := target, targetSeq := targetSeq, reason := .budget })
      | 2 => some (.dispute { seq := seq, target := target, targetSeq := targetSeq, reason := .cleanLimit })
      | 3 => some (.dispute { seq := seq, target := target, targetSeq := targetSeq, reason := .badge })
      | _ => none
  | _, _ => none

/-! ### Reader records (R140 to R142, R208) -/

/-- A record the reader sends (R141). -/
inductive ReaderRecord where
  | present (badge : Badge) (balance : Nat) (cardSeq : Nat)
  | removed (badge : Badge)
  | written (badge : Badge) (newSeq : Nat)
  | writeFailed (badge : Badge) (rejected : Bool)
deriving DecidableEq, Repr

/-- The fields of a record of known kind, by its length. -/
def readerFields (kind : Nat) (fields : List Byte) : Option ReaderRecord :=
  if kind = 0x41 ∧ fields.length = 8 then
    some (.present (badgeOf (fields.take 4)) (numberOf ((fields.drop 4).take 2)) (numberOf (fields.drop 6)))
  else if kind = 0x42 ∧ fields.length = 4 then some (.removed (badgeOf fields))
  else if kind = 0x43 ∧ fields.length = 6 then some (.written (badgeOf (fields.take 4)) (numberOf (fields.drop 4)))
  else if kind = 0x44 ∧ fields.length = 5 then
    match numberOf (fields.drop 4) with
    | 1 => some (.writeFailed (badgeOf (fields.take 4)) false)
    | 2 => some (.writeFailed (badgeOf (fields.take 4)) true)
    | _ => none
  else none

/-- An ended record, tested as R140 and R208 give: stop bits, kind, length, sum check, defined values. -/
def readerRecordOf (chars : List (Byte × Bool)) : Option ReaderRecord :=
  if chars.any (·.2) then none
  else match chars.map (·.1) with
    | [] => none
    | kind :: rest =>
      if rest.getLast? = some (sumBytes (kind :: rest.dropLast)) then readerFields kind.toNat rest.dropLast else none

/-- The bytes of a record to the reader, its check byte the low eight bits of the sum of the rest. -/
def readerOutBytes : ReaderOut → List Byte
  | .write badge seq balance =>
    let r := [0x61#8] ++ badgeBytes badge ++ field2 seq ++ field2 balance
    r ++ [sumBytes r]
  | .signal accept =>
    let r := [0x62#8, if accept then 1#8 else 2#8]
    r ++ [sumBytes r]

/-! ### Panel requests and results (R192, R208) -/

/-- The body length of each request kind, by its code; none for a code that is no request kind. -/
def requestBodyLength : Nat → Option Nat
  | 1 => some 0
  | 2 => some 0
  | 3 => some 0
  | 4 => some 0
  | 5 => some 2
  | 6 => some 4
  | 7 => some 1
  | 8 => some 1
  | 9 => some 0
  | 10 => some 0
  | 11 => some 0
  | 12 => some 0
  | 13 => some 0
  | 14 => some 2
  | 15 => some 0
  | _ => none

def Result.code : Result → Nat
  | .ok => 0
  | .badCheck => 1
  | .badRequest => 2
  | .configBad => 3
  | .notReady => 4
  | .notService => 5
  | .serviceMode => 6
  | .outOfService => 7
  | .rinseRequired => 8
  | .cleaning => 9
  | .badRecipe => 10
  | .badSize => 11
  | .badStrength => 12
  | .freeNotAllowed => 13
  | .queueFull => 14
  | .drawerFull => 15
  | .logFull => 16
  | .noSuchOrder => 17
  | .accepted => 18
  | .tooLate => 19
  | .ending => 20
  | .badSequence => 21
  | .noCycle => 22
  | .noPrompt => 23
  | .busy => 24
  | .badValue => 25
  | .noBase => 26
  | .grinderBlocked => 27

/-- A reply as sent: kind, result, flags, body length in two bytes, body, check (12_formats.md, Panel Messages). -/
def replyBytes (r : Reply) : List Byte :=
  let m := [r.kind, byteOf r.result.code, byteOf (flagCode r.lost)] ++ field2 r.body.length ++ r.body
  m ++ [zeroSumCheck m]

/-- The reply of kind NONE, sent for an empty slot (R193). -/
def noneReply : Reply := { kind := 0#8, result := .ok, lost := false, body := [], notices := 0 }

/-- The idle value on P_MISO. -/
def idleByte : Byte := 0xFF#8

def CleanKind.code : CleanKind → Nat
  | .rinse => 1
  | .clean => 2
  | .descale => 3

def cleanKindOfCode : Nat → Option CleanKind
  | 1 => some .rinse
  | 2 => some .clean
  | 3 => some .descale
  | _ => none

/-- The reason byte. -/
def Reason.code : Reason → Nat
  | .lidOpen => 1
  | .grinderOverload => 2
  | .noPower => 3
  | .lineLost => 4
  | .grindRefused => 5
  | .heatTimeout => 6
  | .drawerTimeout => 7
  | .brewerStuck => 8
  | .overheat => 9
  | .grinderFault => 10
  | .outOfService => 11
  | .cancelled => 12
  | .promptTimeout => 13
  | .noSlot => 14
  | .fault => 15
  | .notServing => 16

def NoticeKind.code : NoticeKind → Nat
  | .orderPaid => 1
  | .orderClosed => 2
  | .payDenied => 3
  | .payRetap => 4
  | .payMismatch => 5
  | .cleanDue => 6
  | .cleanPrompt => 7
  | .cleanDone => 8
  | .logWatermark => 9
  | .degraded => 10
  | .fault => 11
  | .lineTrouble => 12
  | .isolated => 13
  | .rejoined => 14
  | .configMismatch => 15
  | .drawerFull => 16

/-- A notice, 9 bytes. -/
def noticeBytes (n : Notice) : List Byte :=
  [byteOf n.kind.code] ++ field1 (orZero n.order) ++ field1 n.code ++ field1 n.detail1 ++ field1 n.detail2 ++ field4 n.time

def LogKind.code : LogKind → Nat
  | .debit => 1
  | .creditBack => 2
  | .delivered => 3
  | .refundDue => 4
  | .unresolved => 5

/-- The presence byte of a log entry. -/
def logPresence (e : LogEntry) : Nat :=
  flagCode e.order.isSome + 2 * flagCode e.recipe.isSome + 4 * flagCode e.grindMode.isSome + 8 * flagCode e.credit.isSome
    + 16 * flagCode e.unlisted + 32 * flagCode (e.grindMode == some .timed)

/-- A log entry as read, 19 bytes. -/
def logEntryBytes (e : LogEntry) : List Byte :=
  field2 e.seq ++ [byteOf e.kind.code] ++ [byteOf (logPresence e)] ++ badgeBytes e.badge ++ field2 e.amount
    ++ field1 (orZero e.order) ++ field1 (orZero e.recipe) ++ field2 (orZero e.credit) ++ field4 e.time ++ field1 e.epoch

/-! ### The configuration image (R204, 12_formats.md) -/

/-- Two bytes of the image at an offset. -/
def imageWord (at_ : Nat → Nat) (k : Nat) : Nat := at_ k * 256 + at_ (k + 1)

/-- A number lies within a range. -/
def within (lo hi n : Nat) : Bool := lo ≤ n && n ≤ hi

/-- The range tests of one row of the phase table, whose first byte stands at offset `k`. -/
def phaseRowChecks (at_ : Nat → Nat) (k : Nat) : List (Nat × Bool) :=
  [(k, within 0 100 (at_ k)), (k + 1, within 0 1 (at_ (k + 1))), (k + 2, within 0 1 (at_ (k + 2))),
   (k + 3, within 0 1 (at_ (k + 3)))]

/-- The range tests of one recipe record, whose first byte stands at offset `k`; a price is present or absent, any value. -/
def recipeChecks (at_ : Nat → Nat) (k : Nat) : List (Nat × Bool) :=
  [(k, within 1 255 (at_ k)), (k + 1, within 0 50 (at_ (k + 1))), (k + 2, within 0 30 (at_ (k + 2))),
   (k + 3, within 20 400 (imageWord at_ (k + 3))), (k + 5, within 20 400 (imageWord at_ (k + 5))),
   (k + 7, within 20 400 (imageWord at_ (k + 7)))]

/-- Every range test in image order: the field's number and whether it holds (R204). -/
def imageChecks (at_ : Nat → Nat) : List (Nat × Bool) :=
  [(1, within 1 15 (at_ 1)), (2, within 1 4 (at_ 2)), (3, within 20 255 (at_ 3)), (4, within 1 4 (at_ 4)),
   (5, within 3 60 (at_ 5)), (6, within 2 15 (at_ 6)), (7, within 5 60 (at_ 7)), (9, within 1 8 (at_ 9)),
   (10, within 2 16 (at_ 10)), (11, within 1 255 (at_ 11)), (12, within 10 40 (at_ 12)), (13, within 50 100 (at_ 13)),
   (14, within 1 3 (at_ 14)), (15, within 1 255 (at_ 15)), (16, within 1 255 (at_ 16)),
   (17, within 200 1000 (imageWord at_ 17)), (19, within 100 2000 (imageWord at_ 19)),
   (21, within 200 4000 (imageWord at_ 21)), (27, within 5 120 (at_ 27)), (28, within 30 600 (imageWord at_ 28)),
   (30, within 10 120 (at_ 30)), (31, within 1 30 (at_ 31)), (32, within 10 120 (at_ 32)), (33, within 2 10 (at_ 33)),
   (34, within 5 60 (at_ 34)), (35, within 5 30 (at_ 35)), (36, within 1 30 (at_ 36)), (37, within 10 60 (at_ 37)),
   (38, within 5 240 (at_ 38)),
   (39, within 0 2 (at_ 39 % 4) && within 0 2 (at_ 39 / 4 % 4) && within 0 2 (at_ 39 / 16 % 4))]
  ++ phaseRowChecks at_ 40 ++ phaseRowChecks at_ 44 ++ phaseRowChecks at_ 48 ++ phaseRowChecks at_ 52
  ++ phaseRowChecks at_ 56 ++ phaseRowChecks at_ 60 ++ phaseRowChecks at_ 64 ++ phaseRowChecks at_ 68
  ++ phaseRowChecks at_ 72
  ++ [(76, within 1 255 (at_ 76)), (77, within 50 2000 (imageWord at_ 77)), (79, within 20 500 (imageWord at_ 79)),
      (81, within 8 30 (at_ 81)), (82, within 32 60 (at_ 82))]
  ++ recipeChecks at_ 84 ++ recipeChecks at_ 99 ++ recipeChecks at_ 114 ++ recipeChecks at_ 129
  ++ recipeChecks at_ 144 ++ recipeChecks at_ 159 ++ recipeChecks at_ 174 ++ recipeChecks at_ 189

def stopLevelOf : Nat → StopLevel
  | 0 => .closed
  | 1 => .opened
  | _ => .hold

def bitRateOf : Nat → BitRate
  | 1 => .b19200
  | 2 => .b38400
  | 3 => .b57600
  | _ => .b115200

def encoderModeOf : Nat → EncoderMode
  | 1 => .x1
  | 2 => .x2
  | _ => .x4

def phaseRowOf (at_ : Nat → Nat) (k : Nat) : PhaseRow :=
  { pump := at_ k, valveBrew := at_ (k + 1) == 1, valveDrain := at_ (k + 2) == 1, valveRinse := at_ (k + 3) == 1 }

/-- A price, absent where it reads FFFF hex. -/
def priceOf (n : Nat) : Option Nat := if n = 0xFFFF then none else some n

def recipeOf (at_ : Nat → Nat) (k : Nat) : Recipe :=
  { dose := at_ k, prewet := at_ (k + 1), soak := at_ (k + 2), volumeS := imageWord at_ (k + 3),
    volumeM := imageWord at_ (k + 5), volumeL := imageWord at_ (k + 7), priceS := priceOf (imageWord at_ (k + 9)),
    priceM := priceOf (imageWord at_ (k + 11)), priceL := priceOf (imageWord at_ (k + 13)) }

/-- The fields of an image, by the map of 12_formats.md. -/
def cfgOf (at_ : Nat → Nat) : Cfg :=
  { version := at_ 0, station := at_ 1, bitRate := bitRateOf (at_ 2), budget := at_ 3, cleanLimit := at_ 4, leaseS := at_ 5,
    holdLeaseS := at_ 6, needHoldS := at_ 7, soloAllowance := at_ 8, baseUnits := at_ 9, motorUnits := at_ 10,
    heaterRated := at_ 11, keepPercent := at_ 12, grinderDuty := at_ 13, encoderMode := encoderModeOf (at_ 14),
    countsPerDecigram := at_ 15, flowPer10ml := at_ 16, spinUp := imageWord at_ 17, grindLoss := imageWord at_ 19,
    flowLoss := imageWord at_ 21, initialGrindRate := imageWord at_ 23, initialFlowRate := imageWord at_ 25,
    grindPowerWaitS := at_ 27, heatWaitS := imageWord at_ 28, extractionLimitS := at_ 30, drainTimeS := at_ 31,
    ejectWaitS := at_ 32, motionLimitS := at_ 33, tapWindowS := at_ 34, retapWindowS := at_ 35, promptTimeoutMin := at_ 36,
    suspendLimitMin := at_ 37, standbyMin := at_ 38, stopBrew := stopLevelOf (at_ 39 % 4),
    stopDrain := stopLevelOf (at_ 39 / 4 % 4), stopRinse := stopLevelOf (at_ 39 / 16 % 4),
    phases := [phaseRowOf at_ 40, phaseRowOf at_ 44, phaseRowOf at_ 48, phaseRowOf at_ 52, phaseRowOf at_ 56,
               phaseRowOf at_ 60, phaseRowOf at_ 64, phaseRowOf at_ 68, phaseRowOf at_ 72],
    rinseThreshold := at_ 76, cleanThreshold := imageWord at_ 77, descaleThresholdL := imageWord at_ 79,
    drawerLimit := at_ 81, watermark := at_ 82, startRinse := at_ 83 % 2 == 1, freeVend := at_ 83 / 2 % 2 == 1,
    recipes := [recipeOf at_ 84, recipeOf at_ 99, recipeOf at_ 114, recipeOf at_ 129, recipeOf at_ 144, recipeOf at_ 159,
                recipeOf at_ 174, recipeOf at_ 189] }

/-- The bytes of an image by offset. -/
def imageAt (image : List Byte) (k : Nat) : Nat := (image.getD k 0#8).toNat

/-- What the CFL sends on C_MOSI at the start of a read: the read instruction and the start address 0 (R204, 12_formats.md). -/
def configRequest : List Byte := [0x03#8, 0#8, 0#8]

/-- All bytes of an image have one value. -/
def imageBlank (image : List Byte) : Bool := image.all (· == image.headD 0#8)

/-- The version of the image the part reads (12_formats.md). -/
def imageVersion : Nat := 1

/-- The tests of R204 in their order; OK when all hold. -/
def imageTest (image : List Byte) : LoadResult :=
  let at_ := imageAt image
  if imageBlank image then .blank
  else if crc16 (image.take 254) ≠ imageWord at_ 254 then .check
  else if at_ 0 ≠ imageVersion then .version
  else match (imageChecks at_).find? (fun c => !c.2) with
    | some c => .range c.1
    | none => .ok

end Sys2Proof.Machine
end

