-- ==== Sys2Proof/Machine/Flags.lean ====
section
/-! DEFINITION. Facts that the rules derive from the state: what is loaded, compositions and totals, the composed target
of R31, permissions and conditions, the regulator and the heat wish, the start conditions of a cycle, the output lines. -/

namespace Sys2Proof.Machine

/-! ### Configuration and time -/

/-- The loaded configuration (R205). -/
def State.conf (s : State) : Cfg := s.cfl.loaded.getD Cfg.blank

/-- A configuration is loaded and the station is not HALTED: the condition under which the blocks work (R22, R69, R205, R206). -/
def State.working (s : State) : Bool := s.cfl.loaded.isSome && s.plk.mode != .halted

/-- The time in units of 1/576000 s since power-on: 576 units are one millisecond (log 1). -/
def State.units (s : State) : Nat := s.timeBase * 576 + s.subMs

/-- The time in whole seconds (00_scope.md, Time). -/
def State.seconds (s : State) : Nat := s.timeBase / 1000

/-- One bit time of the Share Line in units of 1/576000 s (R1). -/
def bitUnits : BitRate → Nat
  | .b19200 => 30
  | .b38400 => 15
  | .b57600 => 10
  | .b115200 => 5

/-! ### Compositions (R28) -/

/-- The lower of two heat levels. -/
def heatMin (a b : HeatLevel) : HeatLevel := if heatCode a ≤ heatCode b then a else b

/-- One heat level down, OFF staying OFF. -/
def heatDown : HeatLevel → HeatLevel
  | .off => .off
  | .keep => .off
  | .half => .keep
  | .full => .half

/-- The heat units of a level (R28). -/
def heatUnits (c : Cfg) : HeatLevel → Nat
  | .off => 0
  | .keep => (c.heaterRated * c.keepPercent + 99) / 100
  | .half => (c.heaterRated + 1) / 2
  | .full => c.heaterRated

/-- The duty of a heat level in the heat level table (R53). -/
def heatDuty (c : Cfg) : HeatLevel → Nat
  | .off => 0
  | .keep => c.keepPercent
  | .half => 50
  | .full => 100

/-- The other units of a composition: base and grind (R28). -/
def otherUnits (c : Cfg) (k : Composition) : Nat :=
  (if k.base then c.baseUnits else 0) + (if k.grind then c.motorUnits else 0)

/-- The total of a composition (R28). -/
def compTotal (c : Cfg) (k : Composition) : Nat := heatUnits c k.heat + otherUnits c k

/-- A composition raises over another (R28). -/
def raisesOver (a b : Composition) : Bool :=
  (a.base && !b.base) || (a.grind && !b.grind) || (a.clean && !b.clean) || heatCode b.heat < heatCode a.heat

/-- The part by part lower of two compositions. -/
def compMeet (a b : Composition) : Composition :=
  { base := a.base && b.base, grind := a.grind && b.grind, clean := a.clean && b.clean, heat := heatMin a.heat b.heat }

/-! ### The share table (R23) -/

/-- The entry of a station; a number that is no station has an absent one. -/
def State.entry (s : State) (n : Nat) : ShareEntry :=
  if n = 0 then ShareEntry.absent else s.stu.table.getD (n - 1) ShareEntry.absent

/-- An entry's total (R23). -/
def entryTotal (e : ShareEntry) : Nat := e.heatUnits + e.otherUnits

/-- The LIVE entries of the other stations, with their numbers. -/
def State.peers (s : State) : List (Nat × ShareEntry) :=
  ((List.range 15).map fun k => (k + 1, s.entry (k + 1))).filter fun p => p.2.live && p.1 != s.conf.station

/-- The others' total (R23). -/
def State.othersTotal (s : State) : Nat := (s.peers.map fun p => entryTotal p.2).foldl (· + ·) 0

/-- The line total (R23). -/
def State.lineTotal (s : State) : Nat := s.othersTotal + compTotal s.conf s.stu.posted

/-- The clean count without the own posted slot (R23, R31). -/
def State.peersCleaning (s : State) : Nat := (s.peers.filter fun p => p.2.clean == .cleaning).length

/-- The clean count (R23). -/
def State.cleanCount (s : State) : Nat := s.peersCleaning + flagCode s.stu.posted.clean

/-- A LIVE entry of another station, other than `except`, holds this badge (R144, R147, R153). -/
def State.peerHolds (s : State) (badge : Badge) (except_ : Nat) : Bool :=
  s.peers.any fun p => p.1 != except_ && (p.2.held.map HeldBadge.badge) == some badge

/-! ### Wishes and the composed target (R30, R31) -/

/-- What the wishes ask for: the base wish follows the mode, the heat wish is OFF while stepped down (R30). -/
def State.wishes (s : State) : Composition :=
  { base := s.plk.mode == .serving || s.plk.mode == .service, grind := s.stu.grindWish, clean := s.stu.cleanWish,
    heat := if s.stu.stepDown.isSome then .off else s.stu.heatWish }

/-- The heat levels from `top` downward to `bottom`, highest first. -/
def heatsDown (top bottom : HeatLevel) : List HeatLevel :=
  [HeatLevel.full, .half, .keep, .off].filter fun h => heatCode h ≤ heatCode top && heatCode bottom ≤ heatCode h

/-- The target of R31 against a given total of the others and a given budget. -/
def State.target (s : State) (others budget : Nat) : Composition :=
  let w := s.wishes
  let c := s.conf
  let posted := s.stu.posted
  let clean := w.clean && s.peersCleaning < s.stu.effCleanLimit
  if w.base && others + c.baseUnits > budget then compMeet posted w
  else
    let fits := fun (k : Composition) => others + compTotal c k ≤ budget
    let withGrind := fun (h : HeatLevel) => ({ base := w.base, grind := true, clean := clean, heat := h } : Composition)
    let withoutGrind := fun (h : HeatLevel) => ({ base := w.base, grind := false, clean := clean, heat := h } : Composition)
    match (if w.grind then ((heatsDown w.heat .off).map withGrind).find? (fun k => decide (fits k)) else none) with
    | some k => k
    | none =>
      match ((heatsDown w.heat posted.heat).map withoutGrind).find? (fun k => decide (fits k)) with
      | some k => k
      | none => withoutGrind (heatMin posted.heat w.heat)

/-- The target of R31 against the table as it stands. -/
def State.composed (s : State) : Composition := s.target s.othersTotal s.stu.effBudget

/-- The units short of R44: the total with every wish met minus the admissible total. -/
def State.unitsShort (s : State) : Nat := compTotal s.conf s.wishes - compTotal s.conf s.composed

/-- The clean state of a CLAIM that sends this composition (R29). -/
def State.cleanStateOf (s : State) (k : Composition) : CleanState :=
  if k.clean then .cleaning
  else if s.stu.cleanWish then .waiting
  else if s.clc.resume.isSome then .suspended
  else .none

/-! ### The transmit queue (R12, R15) -/

def offerKind : Offer → FrameKind
  | .join => .join
  | .claim _ => .claim
  | .need => .need
  | .dispute _ _ _ => .dispute
  | .holdTake _ _ => .hold
  | .holdFree _ => .hold

/-- The access gap of a slot (R15). -/
def State.gap (s : State) (slot : TxSlot) : Nat :=
  match offerKind slot.offer with
  | .dispute => 6 + 2 * s.conf.station + 12 * slot.attempts
  | _ => (if s.lau.intervalGuarded then 208 else 48) + 2 * s.conf.station + 12 * slot.attempts

/-- A frame of this station is on the line. -/
def State.transmitting (s : State) : Bool := s.lau.queue.any fun t => t.sent.isSome

/-- The place of the oldest slot whose gap the idle timer has reached, while the receiver is in HUNT and no own frame is on
the line (R15, R16). -/
def State.winner (s : State) : Option Nat :=
  if s.transmitting || s.lau.receiver != .hunt then none
  else s.lau.queue.findIdx? fun t => s.gap t ≤ s.lau.idleTimer

/-! ### Latches, permissions and channels -/

/-- Any of the three fault latches (00_scope.md, "fault latch"). -/
def State.anyFault (s : State) : Bool := s.grc.fault || s.brc.stuck || s.brc.overheat

/-- The conditions under which GRINDER ON is refused GRINDER_BLOCKED, grind permission apart (R59). -/
def State.grinderBarred (s : State) : Bool :=
  s.pins.lidOpen || s.pins.grOvld || s.grc.fault || s.cnu.grind.run == .reached

/-- HEATER is held at 0 % (R58). -/
def State.heaterBarred (s : State) : Bool := s.pins.boilOvht || s.brc.overheat

/-- The drawn units (R68). -/
def State.drawn (s : State) : Nat :=
  (if 0 < s.dcu.pump || s.dcu.brewer != .stop then s.conf.baseUnits else 0)
    + (if 0 < s.dcu.heater then heatUnits s.conf s.dcu.granted else 0)
    + (if s.dcu.grinder then s.conf.motorUnits else 0)

/-- The row of the phase table for a phase (R54). -/
def phaseIndex : Phase → Nat
  | .idle => 0
  | .prewet => 1
  | .soak => 2
  | .extract => 3
  | .drain => 4
  | .eject => 5
  | .flush => 6
  | .csoak => 7
  | .motion => 8

def State.phaseRow (s : State) (p : Phase) : PhaseRow :=
  s.conf.phases.getD (phaseIndex p) { pump := 0, valveBrew := false, valveDrain := false, valveRinse := false }

/-! ### Boiler (R117, R119) -/

/-- A cup run is in B_HOME to B_EXTRACT with no abort reason held (R119). -/
def State.runWantsHeat (s : State) : Bool :=
  match s.brc.run with
  | some r => r.abort.isNone && (match r.state with
    | .home | .grind | .close | .prewet | .soak | .heatWait | .extract => true
    | .drain | .eject => false)
  | none => false

/-- A HEAT_WAIT step holds the unit (R104, R119). -/
def State.stepWantsHeat (s : State) : Bool := s.brc.unit == .step && (s.brc.step.map StepService.kind) == some .heatWait

/-- The heat wish by the first row of R119 that applies. -/
def State.heatWishNow (s : State) : HeatLevel :=
  if s.plk.mode == .start || s.plk.mode == .halted || s.stu.lineState == .joining then .off
  else if s.brc.overheat then .off
  else if s.brc.standby then .off
  else if s.runWantsHeat then .full
  else if s.stepWantsHeat then .full
  else .keep

/-- The regulator state (R117); OFF until a configuration has loaded and in HALTED (R121). -/
def State.regulatorNow (s : State) : Regulator :=
  if !s.working then .off
  else if s.brc.overheat then .tripped
  else if s.brc.steppedDown || s.brc.heatWish == .off then .off
  else if s.pins.boilCold then .heating
  else .ready

/-- The position that the end switches show (R106). -/
def State.positionNow (s : State) : Position :=
  if s.pins.brTop && !s.pins.brBot then .top
  else if !s.pins.brTop && s.pins.brBot then .bottom
  else .between

/-- The conditions of the standby timer (R120). -/
def State.standbyConditions (s : State) : Bool :=
  s.plk.mode == .serving && s.oru.queue.isEmpty && s.clc.state == .idle && s.brc.unit == .idle && !s.brc.retained

/-- The brew unit is available (R105). -/
def State.unitAvailable (s : State) : Bool :=
  s.brc.unit == .idle && !s.brc.retained && s.plk.mode == .serving && s.dcu.basePerm

/-- The conditions of a recovery eject (R114). -/
def State.recoveryConditions (s : State) : Bool :=
  s.brc.retained && s.brc.unit == .idle && s.plk.mode == .serving && s.dcu.basePerm && s.pins.drawerIn && !s.brc.stuck
    && s.working

/-! ### Orders (R126, R129) -/

def State.hasRunning (s : State) : Bool := s.oru.queue.any fun o => o.state == .running

/-- The oldest READY record. -/
def State.oldestReady (s : State) : Option Order := s.oru.queue.find? fun o => o.state == .ready

/-- What the cup-pending indication should show (R126). -/
def State.cupPendingNow (s : State) : Bool := s.oru.queue.any fun o => o.state == .ready || o.state == .running

def State.orderOf (s : State) (n : Nat) : Option Order := s.oru.queue.find? fun o => o.number == n

/-- The price of a recipe in a size, present only where the recipe table gives one (R124, R125). -/
def recipePrice (r : Recipe) : Nat → Option Nat
  | 1 => r.priceS
  | 2 => r.priceM
  | 3 => r.priceL
  | _ => none

/-- The volume of a recipe in a size (R111). -/
def recipeVolume (r : Recipe) : Nat → Nat
  | 1 => r.volumeS
  | 2 => r.volumeM
  | _ => r.volumeL

/-- A recipe with no dose, which stands for a number outside the table. -/
def Recipe.none : Recipe :=
  { dose := 0, prewet := 0, soak := 0, volumeS := 0, volumeM := 0, volumeL := 0, priceS := Option.none,
    priceM := Option.none, priceL := Option.none }

def State.recipe (s : State) (n : Nat) : Recipe := s.conf.recipes.getD n Recipe.none

/-- A volume in flow counts, rounded down, at least 1 and at most 65535 (R109, R111, R180). -/
def State.flowTarget (s : State) (ml : Nat) : Nat := min 65535 (max 1 (ml * s.conf.flowPer10ml / 10))

/-! ### Cleaning (R174 to R177) -/

/-- The steps of each kind (R175). -/
def cycleSteps : CleanKind → List StepKind
  | .rinse => [.heatWait, .flush 150, .drain 5]
  | .clean => [.prompt 1, .heatWait, .flush 100, .csoak 60, .motion 5, .flush 100, .csoak 60, .flush 200, .drain 5]
  | .descale => [.prompt 2, .flush 200, .csoak 300, .flush 200, .csoak 300, .flush 200, .prompt 3, .flush 300, .flush 300,
                 .flush 300, .drain 5]

/-- Step `n`, counted from 1. -/
def stepAt (k : CleanKind) (n : Nat) : StepKind := (cycleSteps k).getD (n - 1) (.drain 5)

/-- The first and last step of the stretch of a kind (R175). -/
def stretchOf : CleanKind → Option (Nat × Nat)
  | .rinse => none
  | .clean => some (3, 8)
  | .descale => some (2, 10)

def firstOfStretch (k : CleanKind) (n : Nat) : Bool := (stretchOf k).any fun p => p.1 == n
def lastOfStretch (k : CleanKind) (n : Nat) : Bool := (stretchOf k).any fun p => p.2 == n

/-- The step of the cycle in hand is interruptible: outside a stretch, or the first of a stretch not yet entered (R175). -/
def interruptible (c : Cycle) : Bool :=
  match stretchOf c.kind with
  | none => true
  | some (a, b) => c.step < a || b < c.step || (c.step == a && !c.stretch)

/-- The CLC is in a non-interruptible stretch (R176). -/
def State.inStretch (s : State) : Bool :=
  (s.clc.state == .run || s.clc.state == .prompt) && s.clc.cycle.any fun c => c.stretch

/-- A cleaning step is running (R176). -/
def State.stepRunning (s : State) : Bool := s.clc.state == .run || s.clc.state == .prompt

def kindMark (m : KindMarks) : CleanKind → Bool
  | .rinse => m.rinse
  | .clean => m.clean
  | .descale => m.descale

def setKindMark (m : KindMarks) (k : CleanKind) (b : Bool) : KindMarks :=
  match k with
  | .rinse => { m with rinse := b }
  | .clean => { m with clean := b }
  | .descale => { m with descale := b }

/-- A kind is due and not held; a due RINSE is not held while the rinse-required latch is set (R174). -/
def State.runnable (s : State) (k : CleanKind) : Bool :=
  kindMark s.clc.due k && (!kindMark s.clc.held k || (k == .rinse && s.clc.rinseRequired))

/-- The kind a cycle would be started with (R174). -/
def State.nextKind (s : State) : Option CleanKind := [CleanKind.descale, .clean, .rinse].find? s.runnable

/-- The start conditions (R177). -/
def State.startConditions (s : State) : Bool :=
  (s.nextKind.isSome || s.clc.resume.isSome) && s.plk.mode == .serving && s.stu.lineState == .online && !s.anyFault
    && s.stu.stepDown.isNone && (!s.oru.cupPending || s.clc.rinseRequired)

/-! ### Output lines (R1, R51, R52, R193, R194) -/

/-- HEAT within its 1 s window (R52). -/
def State.heatLine (s : State) : Bool := s.timeBase % 1000 < s.dcu.heater * 10

/-- A 5 ms period driven for d × 50 µs: 50 µs are 28.8 units of 1/576000 s (R52). -/
def State.pwmLine (s : State) (duty : Nat) : Bool := 5 * (s.timeBase % 5 * 576 + s.subMs) < duty * 144

def State.pumpLine (s : State) : Bool := 0 < s.dcu.pump && s.pwmLine s.dcu.pumpPeriod
def State.grindLine (s : State) : Bool := s.dcu.grinder && s.pwmLine s.dcu.grinderPeriod
def State.brewUpLine (s : State) : Bool := s.dcu.brewer == .up
def State.brewDownLine (s : State) : Bool := s.dcu.brewer == .down

/-- The valve lines follow the active values. A valve that a warm reset left at its stop level OPENED, or HOLD at OPEN, drives its line
until the load, as R64 says, against the closing sentence of R51 that no line is driven before a load (the model's choice, log 56). -/
def State.valveBrewLine (s : State) : Bool := s.dcu.valveBrew
def State.valveDrainLine (s : State) : Bool := s.dcu.valveDrain
def State.valveRinseLine (s : State) : Bool := s.dcu.valveRinse

/-- RDY: a reply waits; negated while RESET_N is asserted (R193, R202). -/
def State.rdyLine (s : State) : Bool := s.plk.reply.isSome && !s.pins.resetAsserted

/-- ATTN: notices wait; negated while RESET_N is asserted (R194, R202). -/
def State.attnLine (s : State) : Bool := !s.plk.notices.isEmpty && !s.pins.resetAsserted

/-- The bit that this station sends now, high true; none while it sends nothing, past the last bit of the frame too (R3). -/
def State.sentBit (s : State) : Option Bool :=
  (s.lau.queue.findSome? TxSlot.sent).bind fun f => (frameBits s.conf.station f.frame)[s.lau.txBit]?

/-- SL_DE: asserted for each low bit sent, negated for each high bit and while nothing is sent (R1). -/
def State.slDeLine (s : State) : Bool := s.sentBit == some false

/-- SL_TX, true when driven low: with SL_DE and never otherwise (R1). -/
def State.slTxLow (s : State) : Bool := s.slDeLine

/-- The level that SL_RX presents, true when low: low if any station sends low (R1). -/
def State.slRxLow (s : State) : Bool := s.pins.lineLow || s.slDeLine

/-- C_SEL: asserted while an image is being read (R204). -/
def State.cSelLine (s : State) : Bool := s.cfl.reading != .none && !s.pins.resetAsserted

/-- The bytes that a read in progress sends on C_MOSI (R204). -/
def State.cMosiBytes (s : State) : List Byte := if s.cSelLine then configRequest else []

end Sys2Proof.Machine
end

