-- ==== Sys2Proof/Machine/Ops.lean ====
section
/-! DEFINITION. What every block shares: the reports between blocks, posting a notice, offering a frame to the transmit
queue, and the raise guard and idle timer of the line. -/

namespace Sys2Proof.Machine

/-- The parts of a composition (R28); `any` asks for all of them. -/
inductive Part where
  | base
  | grind
  | clean
  | heat
  | any
deriving DecidableEq, Repr

/-- The codes of PAY_DENIED with which a payment ends unpaid (R148). -/
inductive PayCode where
  | badgeBusy
  | lineBusy
  | removed
  | rejected
  | holdLost
  | mismatch
  | unresolved
deriving DecidableEq, Repr

/-- The answers to CANCEL_GRIND (R100). -/
inductive GrindCancelAnswer where
  | ok
  | noRun
  | ending
deriving DecidableEq, Repr

/-- What becomes of the puck when a cup run ends (R116). -/
inductive Puck where
  | dropped
  | retained
  | none
deriving DecidableEq, Repr

/-- The outcome of an order (R134). -/
inductive OrderOutcome where
  | delivered
  | short
  | failed (r : Reason)
  | cancelled
  | expired
deriving DecidableEq, Repr

/-- The BRC's report of the end of a cup run; the grind and extraction counts with their modes are absent where the run came to no
grind report or no extraction (R116, R133). -/
structure RunEnd where
  order : Nat
  outcome : OrderOutcome
  grind : Option (Nat × RunMode)
  extraction : Option (Nat × RunMode)
  puck : Puck
deriving DecidableEq, Repr

/-- A report or request from one block to another, taken whole in the action that makes it. A handler answers with the
reports it makes in turn, in the order its rule lists them; Machine/React.lean takes them depth first. -/
inductive Act where
  /-- To the PLK: a notice (R194). -/
  | post (kind : NoticeKind) (order : Option Nat) (code detail1 detail2 : Nat)
  /-- In the LAU: the next slot whose gap is reached wins access (R16). -/
  | lauAccess
  /-- STU to DCU and BRC: the granted heat level and the permissions (R53). -/
  | claimReport
  /-- In the STU: what the wishes no longer ask for is lowered (R36). -/
  | stuLower
  /-- In the STU: a wish for this part may have risen (R30, R49). -/
  | stuRise (p : Part)
  /-- In the STU: a retry point (R37). -/
  | stuRetry
  /-- To the STU: the wishes (R30). -/
  | stuHeatWish (h : HeatLevel)
  | stuGrindWish (b : Bool)
  | stuCleanWish (b : Bool)
  /-- In the STU: the step-down ends, if there is one (R46). -/
  | stuStepDownEnd
  /-- In the STU: the need record is brought up to date (R44). -/
  | stuNeed
  /-- To the CNU: an owner arms a run (R73). -/
  | cnuArm (c : CounterId) (o : Owner) (target : Nat)
  | cnuArmCommit (c : CounterId) (o : Owner) (target : Nat)
  /-- DCU to CNU: a stop event ends the runs of both counters, a brew-unit stop that of the flow counter (R76). -/
  | cnuStop (c : CounterId)
  /-- CNU to the run's owner: RUN_ENDED (R78). -/
  | runEnded (o : Owner) (cap : Capture)
  /-- In the CNU: the rate record after a run (R85). -/
  | rateUpdate (c : CounterId) (cap : Capture)
  /-- To the DCU: a stop event (R62) and its report to each block; `stopOver` ends the reporting. -/
  | stopEvent (cause : Reason)
  | stopOver
  | grcStop
  | brcStop (cause : Reason)
  | brcStopOver
  | clcStop (cause : Reason)
  /-- STU to GRC (R91, R98). -/
  | grcGranted
  | grcWithdrawn
  /-- In the GRC: the counter is armed, GRINDER is asked ON (R93). -/
  | grcStartGrinder
  /-- In the BRC: a state of the cup run is entered (R107). -/
  | brcEnter (st : RunState)
  /-- In the BRC: a move is asked for, or has arrived (R106). -/
  | brcMove (up : Bool)
  | brcArrived (up : Bool)
  /-- In the BRC: B_EJECT acts on the drawer (R112). -/
  | brcEject
  /-- In the BRC: the run proceeds after an abort (R113). -/
  | brcProceed
  /-- In the BRC: the unit becomes IDLE (R105), and an offer is made. -/
  | brcUnitIdle
  | brcOffer
  /-- In the BRC: heat wish and regulator state are recomputed (R117, R119). -/
  | brcHeat
  | brcRegulator
  /-- In the BRC: READY is reported at once to a HEAT_WAIT step (R104). -/
  | brcReadyCheck
  /-- DCU to BRC: NO_BASE (R60). -/
  | brcNoBase
  /-- STU to BRC: LINE_LOST (R48). -/
  | brcLineLost
  /-- ORU to BRC: the grind report, or GRIND_REFUSED (R108). -/
  | brcGrindReport (r : GrindReport)
  | brcGrindRefused
  /-- GRC to BRC: the answer to CANCEL_GRIND (R100). -/
  | brcGrindCancelAnswer (a : GrindCancelAnswer)
  /-- CLC to BRC: a granted step is served, STEP_END (R104). -/
  | brcServeStep
  | brcStepEnd
  /-- In the BRC: the standby timer's conditions (R120). -/
  | brcStandby
  /-- To the ORU: a start point (R129), an offer (R105), GRIND_READY (R131), the grind report (R132), the end of a run
  (R133), FAULT_SET (R137). -/
  | oruStart
  | oruOffer
  | oruGrindReady
  | oruGrindReport (r : GrindReport)
  | oruRunEnd (report : RunEnd)
  | oruFaultSet
  /-- In the ORU: the cup-pending indication is brought up to date (R126). -/
  | oruCupPending
  /-- To the CLC. -/
  | clcOffer
  | clcGranted
  | clcLineLost
  | clcStepDown
  | clcReady
  | clcPositioned
  | clcStrokesDone
  /-- BRC to CLC: a stop has ended the move of a step (R104). -/
  | clcMoveStopped
  | clcCupPending
  /-- In the CLC: a STEP request (R179), what follows STEP_END (R181), the wait for the slot (R178). -/
  | clcRequest
  | clcStepTail
  | clcSlotWait
  /-- To the PYU. -/
  | pyuGuardEnd
  | pyuDispute (seq : Nat)
  | pyuJoin
  | pyuStaleCleared
  | pyuTakePosted (tag : Nat) (seq : Nat)
  | pyuTakeGivenUp (tag : Nat)
  | pyuHoldCleared (badge : Badge)
  | pyuHoldTest (station : Nat) (badge : Badge) (seq : Nat)
  | pyuTryWrite
  | pyuEndUnpaid (code : PayCode)
deriving DecidableEq, Repr

/-- A state and the reports still to be taken in the same action. -/
abbrev Eff := State × List Act

/-! ### Notices (R194) -/

/-- A notice is queued, or discarded with the notices-lost flag set when 16 are queued. None is posted in HALTED (R206). -/
def postNotice (kind : NoticeKind) (order : Option Nat) (code detail1 detail2 : Nat) (s : State) : State :=
  if s.plk.mode = .halted then s
  else if s.plk.notices.length < 16 then
    s.onPlk fun p => { p with notices := p.notices ++ [{ kind := kind, order := order, code := code, detail1 := detail1,
                                                         detail2 := detail2, time := s.timeBase / 1000 }] }
  else s.onPlk fun p => { p with noticesLost := true }

/-! ### Offers to the transmit queue (R12 to R14) -/

/-- Seven slots hold frames of kinds other than CLAIM (R12). -/
def State.queueFull (s : State) : Bool := 7 ≤ (s.lau.queue.filter fun t => offerKind t.offer != .claim).length

/-- A new slot (R12). -/
def newSlot (o : Offer) : TxSlot := { offer := o, attempts := 0, again := none, sent := none }

/-- Two offers of one coalescing kind become the later one; a CLAIM asked to try a raise stays so asked (R13; log 8). -/
def mergeOffer (old new : Offer) : Offer :=
  match old, new with
  | .claim a, .claim b => .claim (a || b)
  | _, n => n

/-- A coalescing offer meets the queued frame of its kind: content replaced in place, or stored with the again mark (R13). -/
def coalesce (o : Offer) (t : TxSlot) : TxSlot :=
  if offerKind t.offer ≠ offerKind o then t
  else if t.sent.isSome then { t with again := some (match t.again with | some a => mergeOffer a o | none => o) }
  else { t with offer := mergeOffer t.offer o }

/-- The kinds that coalesce (R13). -/
def coalesces : Offer → Bool
  | .join => true
  | .claim _ => true
  | .need => true
  | .dispute _ _ _ => false
  | .holdTake _ _ => false
  | .holdFree _ => false

/-- A DISPUTE of the same pair is queued (R14). -/
def State.disputeQueued (s : State) (target targetSeq : Nat) : Bool :=
  s.lau.queue.any fun t => match t.offer with
    | .dispute a b _ => a == target && b == targetSeq
    | _ => false

/-- A HOLD TAKE of this payment is queued (R151). -/
def State.takeQueued (s : State) (tag : Nat) : Bool :=
  s.lau.queue.any fun t => match t.offer with
    | .holdTake _ g => g == tag
    | _ => false

/-- A frame is offered to the LAU: queued, coalesced, dropped with LINE_TROUBLE DROPPED, or (HOLD TAKE on a full queue)
refused without a notice, which the PYU sees by `queueFull` (R12 to R14). Before the load and in HALTED nothing is queued (R22). -/
def offerFrame (o : Offer) (s : State) : State :=
  if !s.working then s
  else if coalesces o && s.lau.queue.any (fun t => offerKind t.offer == offerKind o) then
    s.onLau fun l => { l with queue := l.queue.map (coalesce o) }
  else match o with
    | .claim _ => s.onLau fun l => { l with queue := l.queue ++ [newSlot o] }
    | .dispute target targetSeq _ =>
      if s.disputeQueued target targetSeq then s
      else if s.queueFull then postNotice .lineTrouble none 1 (frameKindCode .dispute) 0 s
      else s.onLau fun l => { l with queue := l.queue ++ [newSlot o] }
    | .holdTake _ _ => if s.queueFull then s else s.onLau fun l => { l with queue := l.queue ++ [newSlot o] }
    | .join | .need | .holdFree _ =>
      if s.queueFull then postNotice .lineTrouble none 1 (frameKindCode (offerKind o)) 0 s
      else s.onLau fun l => { l with queue := l.queue ++ [newSlot o] }

/-- A CLAIM that the rules call a PLAIN CLAIM (log 8). -/
def offerPlainClaim (s : State) : State := offerFrame (.claim false) s

/-- A CLAIM offered for a rise or a retry (R30, R37). -/
def offerClaim (s : State) : State := offerFrame (.claim true) s

/-! ### Raise guard and idle timer (R15, R17) -/

/-- The raise guard is set, its idle count restarting (R17). -/
def setGuard (s : State) : State := s.onLau fun l => { l with guard := true, guardCount := 0 }

/-- A new idle interval begins from 0; it is guarded if the flag is set now (R15). A low level restarts the guard count too (R17). -/
def restartIdle (s : State) : State :=
  s.onLau fun l => { l with idleTimer := 0, guardCount := 0, intervalGuarded := l.guard }

/-- The level of SL_RX as a command reports it (R1). -/
def setLine (low : Bool) (s : State) : State := s.onPins fun p => { p with lineLow := low }

/-- The receiver returns to HUNT, at the end of a frame or at an abandonment (R7, R15). -/
def toHunt (s : State) : State := restartIdle (s.onLau fun l => { l with receiver := .hunt })

end Sys2Proof.Machine
end

