-- ==== Sys2Proof/Machine/Counters.lean ====
section
/-! DEFINITION. The counters of the Counting Unit: loss monitors, arming, run ends, captures, rate records (R73, R76 to R85). -/

namespace Sys2Proof.Machine

def State.counter (s : State) : CounterId → Counter
  | .grind => s.cnu.grind
  | .flow => s.cnu.flow

def onCounter (c : CounterId) (f : Counter → Counter) (s : State) : State :=
  match c with
  | .grind => s.onCnu fun u => { u with grind := f u.grind }
  | .flow => s.onCnu fun u => { u with flow := f u.flow }

/-- The loss time of a monitor (R79). -/
def State.lossTime (s : State) : CounterId → Nat
  | .grind => s.conf.grindLoss
  | .flow => s.conf.flowLoss

/-- The DCU reports the counter's channel newly driven (R79). -/
def monitorDriven (c : CounterId) (s : State) : State :=
  onCounter c (fun k => if k.latch then k else { k with monitor := .spinUp s.timeBase }) s

/-- The DCU reports the counter's channel no longer driven (R79). -/
def monitorReleased (c : CounterId) (s : State) : State := onCounter c (fun k => { k with monitor := .off }) s

/-- The run time of a number of counts at a rate, rounded up to a whole millisecond (R82). -/
def runTime (rate counts : Nat) : Nat := (counts * 100 + rate - 1) / rate

/-- The counter holds an armed run (R73). -/
def armedRun (k : Counter) : Bool := k.run == .counting || k.run == .timed

/-- The capture of a run that ends now (R77). -/
def captureOf (k : Counter) (cause : EndCause) (now : Nat) : Capture :=
  { count := k.count, mode := k.mode, cause := cause, duration := min 65535 (now - k.startTime) }

/-- A counter whose run has ended with a capture: IDLE, or REACHED where a counted grind run reached its
target (R74, R77). In IDLE it shows no target and the run mode of the ended run (the model's choice, log 44). -/
def endedCounter (k : Counter) (reached : Bool) (cap : Capture) : Counter :=
  { k with run := if reached then .reached else .idle, target := if reached then k.target else none, owner := none,
           endTime := none, armedTimed := false, previous := k.capture, capture := cap }

/-- The code of DEGRADED for a timed run (R82) and for a loss (R80). -/
def timedCode : CounterId → Nat
  | .grind => 3
  | .flow => 4

def lossCode : CounterId → Nat
  | .grind => 1
  | .flow => 2

/-- A run ends: the captures are taken, the owner is told, the rate record is updated, and DEGRADED is posted last where a
run armed TIMED ended by time (R76 to R78, R82). -/
def endRun (c : CounterId) (cause : EndCause) (s : State) : Eff :=
  let k := s.counter c
  let cap := captureOf k cause s.timeBase
  let s1 := onCounter c (fun k => endedCounter k (c == .grind && cause == .target) cap) s
  let told := match k.owner with
    | some o => [Act.runEnded o cap]
    | none => []
  let degraded := if cause = .time ∧ k.armedTimed then [Act.post .degraded none (timedCode c) 0 0] else []
  (s1, told ++ [.rateUpdate c cap] ++ degraded)

/-- The rate record after a run (R83, R85). -/
def rateUpdate (c : CounterId) (cap : Capture) (s : State) : State :=
  if cap.cause = .target ∧ cap.mode = .counted ∧ 1000 ≤ cap.duration then
    onCounter c (fun k => if k.latch then k else { k with rate := max 1 ((3 * k.rate + cap.count * 100 / cap.duration) / 4) }) s
  else s

/-- A counter armed now with a target (R73, steps 2 to 4). -/
def armedCounter (k : Counter) (o : Owner) (target now : Nat) : Counter :=
  { k with count := 0, run := if k.latch then .timed else .counting, target := some target,
           mode := if k.latch then .timed else .counted, owner := some o, startTime := now,
           endTime := if k.latch then some (now + runTime k.rate target) else none, armedTimed := k.latch }

def armCommit (c : CounterId) (o : Owner) (target : Nat) (s : State) : State :=
  onCounter c (fun k => armedCounter k o target s.timeBase) s

/-- Arming; a run already armed ends DISARM first (R73). -/
def arm (c : CounterId) (o : Owner) (target : Nat) (s : State) : Eff :=
  if armedRun (s.counter c) then
    let e := endRun c .disarm s
    (e.1, e.2 ++ [.cnuArmCommit c o target])
  else (armCommit c o target s, [])

/-- The owner disarms its run; in IDLE and REACHED nothing changes (R76). -/
def disarm (c : CounterId) (s : State) : Eff :=
  if armedRun (s.counter c) then endRun c .disarm s else (s, [])

/-- A stop report ends the counter's run (R76). -/
def stopRun (c : CounterId) (s : State) : Eff :=
  if armedRun (s.counter c) then endRun c .stop s else (s, [])

/-- The GRC releases the grind counter (R75). -/
def releaseGrind (s : State) : State :=
  onCounter .grind (fun k => if k.run = .reached then { k with run := .idle, target := none } else k) s

end Sys2Proof.Machine
end

