-- ==== Sys2Proof/Machine/Drive.lean ====
section
/-! DEFINITION. The Drive Channel Unit: the channels, the phase table, heat load events, permissions and stops (R51 to R68). -/

namespace Sys2Proof.Machine

/-! ### One channel at a time -/

/-- PUMP takes a duty; its drive is reported to the flow monitor, and 0 % releases the line at once (R52, R56, R79). -/
def setPump (d : Nat) (s : State) : State :=
  let s1 := s.onDcu fun u => { u with pump := d, pumpPeriod := if d = 0 then 0 else u.pumpPeriod }
  if d = 0 then (if s.dcu.pump = 0 then s1 else monitorReleased .flow s1)
  else (if s.dcu.pump = 0 then monitorDriven .flow s1 else s1)

/-- GRINDER takes ON or OFF; the change is reported to the grind monitor (R59, R79). -/
def setGrinder (on : Bool) (s : State) : State :=
  if s.dcu.grinder = on then s
  else
    let s1 := s.onDcu fun u => { u with grinder := on, grinderPeriod := if on then u.grinderPeriod else 0 }
    if on then monitorDriven .grind s1 else monitorReleased .grind s1

def setBrewer (v : BrewerDrive) (s : State) : State := s.onDcu fun u => { u with brewer := v }

/-- A request to set GRINDER ON: done, or none where it is refused GRINDER_BLOCKED (R59). -/
def grinderOn (s : State) : Option State :=
  if s.grinderBarred || !s.dcu.grindPerm then none else some (setGrinder true s)

/-! ### Holding sets -/

/-- The HEATER duty of a heat load event: 0 % under R58, a held value clipped to the granted duty (R57, R65). -/
def State.heaterNow (s : State) : Nat :=
  if s.heaterBarred then 0
  else if s.dcu.holds.heater then min s.dcu.heater (heatDuty s.conf s.dcu.granted)
  else if s.dcu.regulator = .heating then heatDuty s.conf s.dcu.granted
  else 0

/-- A heat load event (R57). -/
def heatLoad (s : State) : State := s.onDcu fun u => { u with heater := s.heaterNow }

/-- The BRC reports the regulator state (R57). -/
def reportRegulator (s : State) : State := heatLoad (s.onDcu fun u => { u with regulator := s.brc.regulator })

/-- A drive phase is set and its row loads (R56). -/
def phaseSet (p : Phase) (s : State) : State :=
  if !s.working then s
  else
    let row := s.phaseRow p
    let s1 := s.onDcu fun u => { u with
      phase := p,
      valveBrew := if u.holds.valveBrew then u.valveBrew else row.valveBrew,
      valveDrain := if u.holds.valveDrain then u.valveDrain else row.valveDrain,
      valveRinse := if u.holds.valveRinse then u.valveRinse else row.valveRinse }
    if s.dcu.holds.pump then s1
    else setPump (if s.dcu.basePerm then row.pump else 0) s1

/-! ### Permissions -/

/-- The STU reports the granted heat level and the permissions; the DCU brings its channels within them in the same action
(R53, R59, R60, R65, R66, R68). -/
def claimReport (s : State) : Eff :=
  let k := s.stu.confirmed
  let s1 := heatLoad (s.onDcu fun u => { u with granted := k.heat, grindPerm := k.grind, basePerm := k.base })
  let s2 := if !k.grind then setGrinder false s1
    else if s1.dcu.serviceGrind && !s1.grinderBarred then setGrinder true s1
    else s1
  if k.base then (s2, if s.dcu.basePerm then [] else [.brcOffer])
  else
    let s3 := if 0 < s2.dcu.pump then setPump 0 s2 else s2
    (setBrewer .stop s3, if s.dcu.brewer = .stop then [] else [.brcNoBase])

/-! ### Stops -/

/-- A valve after a stop: its configured stop level, HOLD keeping the value it had (R62). -/
def stopValve (l : StopLevel) (v : Bool) : Bool :=
  match l with
  | .closed => false
  | .opened => true
  | .hold => v

/-- The stop levels of a stop event on every channel; hold marks and the service grind mark are cleared (R62). -/
def stopLevels (s : State) : State :=
  let c := s.conf
  let s1 := setGrinder false (setPump 0 s)
  s1.onDcu fun u => { u with
    heater := 0, brewer := .stop, valveBrew := stopValve c.stopBrew u.valveBrew,
    valveDrain := stopValve c.stopDrain u.valveDrain, valveRinse := stopValve c.stopRinse u.valveRinse,
    holds := HoldMarks.clear, serviceGrind := false }

/-- A stop event, reported with its cause to the CNU, the BRC, the GRC and the CLC (R62). The flow run ends before the cup run
leaves its state, so that its count is recorded (R111), and the cup run holds the cause before the grind reports CANCELLED, which does
not replace it (R98); what the aborted cup run does next follows all the reports (R113; log 43). -/
def stopEvent (cause : Reason) (s : State) : Eff :=
  (stopLevels s, [.cnuStop .flow, .brcStop cause, .grcStop, .cnuStop .grind, .clcStop cause, .brcStopOver, .stopOver])

/-- A brew-unit stop: PUMP, BREWER and the valves, with their hold marks (R63). Its reports are the caller's. -/
def unitStop (s : State) : State :=
  let c := s.conf
  let s1 := setPump 0 s
  s1.onDcu fun u => { u with
    brewer := .stop, valveBrew := stopValve c.stopBrew u.valveBrew, valveDrain := stopValve c.stopDrain u.valveDrain,
    valveRinse := stopValve c.stopRinse u.valveRinse,
    holds := { u.holds with pump := false, brewer := false, valveBrew := false, valveDrain := false, valveRinse := false } }

end Sys2Proof.Machine
end

