-- ==== Sys2Proof/Machine/Counting.lean ====
section
/-! DEFINITION. Edges, terminal count, loss of signal and timed ends (R70 to R74, R79 to R82), with the cleaning counters
that the flow counts feed (R172, R173). -/

namespace Sys2Proof.Machine

/-! ### Due flags and cleaning counters -/

/-- A kind becomes due; a flag that was clear posts CLEAN_DUE (R173). -/
def setDue (k : CleanKind) (s : State) : State :=
  if kindMark s.clc.due k then s
  else postNotice .cleanDue none k.code 0 0 (s.onClc fun c => { c with due := setKindMark c.due k true })

/-- One cup made advances both cup counters; a counter that reaches its threshold sets its flag (R172, R173), RINSE before CLEAN where
both do (the model's choice, log 62). -/
def cupMade (s : State) : State :=
  let r := min 65535 (s.clc.cupsSinceRinse + 1)
  let c := min 65535 (s.clc.cupsSinceClean + 1)
  let s1 := s.onClc fun u => { u with cupsSinceRinse := r, cupsSinceClean := c }
  let s2 := if s.clc.cupsSinceRinse < s.conf.rinseThreshold ∧ s.conf.rinseThreshold ≤ r then setDue .rinse s1 else s1
  if s.clc.cupsSinceClean < s.conf.cleanThreshold ∧ s.conf.cleanThreshold ≤ c then setDue .clean s2 else s2

/-- One flow count moves the residue, and at 100 ml the water counter (R172, R173). -/
def flowCount (s : State) : State :=
  if s.clc.residue + 1 < 10 * s.conf.flowPer10ml then s.onClc fun u => { u with residue := s.clc.residue + 1 }
  else
    let w := min 65535 (s.clc.waterSinceDescale + 1)
    let s1 := s.onClc fun u => { u with residue := 0, waterSinceDescale := w }
    if s.clc.waterSinceDescale < s.conf.descaleThresholdL * 10 ∧ s.conf.descaleThresholdL * 10 ≤ w then setDue .descale s1
    else s1

/-! ### Ends made by the counter itself -/

/-- The one-shot stop of the counter's channel; hold marks stay as they were (R74, R82). -/
def oneShot (c : CounterId) (s : State) : State :=
  match c with
  | .grind => setGrinder false s
  | .flow => setPump 0 s

/-- Terminal count: the one-shot stop, then the run's end TARGET (R74). -/
def terminalCount (c : CounterId) (s : State) : Eff := endRun c .target (oneShot c s)

/-- The end time of a TIMED run (R82). -/
def timeEnd (c : CounterId) (s : State) : Eff := endRun c .time (oneShot c s)

/-- An edge in WATCH moves the last edge time (R79). -/
def monitorEdge (now : Nat) (k : Counter) : Counter :=
  match k.monitor with
  | .watch _ => { k with monitor := .watch now }
  | _ => k

/-- A counter after its count has moved to `n` on an edge (R71, R72, R79). -/
def edgeCounter (n now : Nat) (k : Counter) : Counter := monitorEdge now { k with count := n }

/-- A count that moved to `n` has brought a COUNTING run to its target (R74). -/
def reachesTarget (k : Counter) (n : Nat) : Bool := k.run == .counting && k.count < n && k.target == some n

/-! ### The encoder (R70, R71) -/

/-- The place of a pair of levels in the forward order. -/
def encoderPlace : Bool → Bool → Nat
  | false, false => 0
  | true, false => 1
  | true, true => 2
  | false, true => 3

/-- A step counts in the configured encoder mode, `a` and `b` telling which input changed and `o` the old place (R70). -/
def countingStep (m : EncoderMode) (old new : Nat) : Bool :=
  match m with
  | .x1 => (old == 0 && new == 1) || (old == 1 && new == 0)
  | .x2 => (old == 0 && new == 1) || (old == 1 && new == 0) || (old == 2 && new == 3) || (old == 3 && new == 2)
  | .x4 => true

/-- One step between two neighbouring places (R70, R71, R74). -/
def encoderMove (old new : Nat) (s : State) : Eff :=
  let k := s.cnu.grind
  if !countingStep s.conf.encoderMode old new || k.run == .reached then (s, [])
  else
    let forward := (old + 1) % 4 == new
    let n := if forward then min 65535 (k.count + 1) else k.count - 1
    let s1 := onCounter .grind (edgeCounter n s.timeBase) s
    if reachesTarget k n then terminalCount .grind s1 else (s1, [])

/-- A taken change of the encoder to new levels (R70). The levels given in START or HALTED are the pair that the first change after
the load is compared with (the model's choice, log 58). -/
def encoderChange (a b : Bool) (s : State) : Eff :=
  let old := encoderPlace s.pins.encA s.pins.encB
  let new := encoderPlace a b
  let s1 := s.onPins fun p => { p with encA := a, encB := b }
  if !s.working || old == new then (s1, [])
  else if (old + 2) % 4 == new then (s1.onCnu fun u => { u with skips := min 255 (u.skips + 1) }, [])
  else encoderMove old new s1

/-! ### The flow meter (R72) -/

/-- A rising level on FLOW: the count, the monitor, one flow count to the CLC, and terminal count (R72). The
CLC has the count before terminal count is taken (the model's choice, log 46). -/
def flowRise (s : State) : Eff :=
  if !s.working then (s, [])
  else
    let k := s.cnu.flow
    let n := min 65535 (k.count + 1)
    let s1 := flowCount (onCounter .flow (edgeCounter n s.timeBase) s)
    if reachesTarget k n then terminalCount .flow s1 else (s1, [])

/-! ### Loss of signal (R80, R81) -/

/-- A counter whose monitor has tripped: the latch is set, a COUNTING run becomes TIMED for the counts remaining (R80). -/
def trippedCounter (now : Nat) (k : Counter) : Counter :=
  let k1 := { k with latch := true, monitor := .off }
  if k.run = .counting then
    { k1 with run := .timed, mode := .timed, endTime := some (now + runTime k.rate (k.target.getD 0 - k.count)) }
  else k1

/-- The loss time has passed: the monitor trips, or waits once more while GR_OVLD is asserted (R80, R81). -/
def lossTrip (c : CounterId) (s : State) : State :=
  if c = .grind ∧ s.pins.grOvld = true then onCounter c (fun k => { k with monitor := .watch s.timeBase }) s
  else postNotice .degraded none (lossCode c) 0 0 (onCounter c (trippedCounter s.timeBase) s)

/-- The spin-up time has expired (R79). -/
def spinUpDone (c : CounterId) (s : State) : State := onCounter c (fun k => { k with monitor := .watch s.timeBase }) s

end Sys2Proof.Machine
end

