-- ==== Sys2Proof/Machine/Share.lean ====
section
/-! DEFINITION. The Share Table Unit: wishes, composing, raises and their settlement, disputes, renewal, the stale mark,
NEED and step-down, the line state (R23 to R50). -/

namespace Sys2Proof.Machine

/-! ### Entries of the table -/

/-- An entry is replaced; a number that is no station changes nothing. -/
def setEntry (n : Nat) (e : ShareEntry) (s : State) : State :=
  if n = 0 then s else s.onStu fun u => { u with table := u.table.set (n - 1) e }

/-- What an expiry leaves of an entry (R26). -/
def expiredEntry (e : ShareEntry) : ShareEntry :=
  { e with live := false, heat := .off, heatUnits := 0, otherUnits := 0, clean := .none, held := none }

/-- The last sequence of an entry (R23). -/
def noteSeq (n seq : Nat) (s : State) : State := setEntry n { s.entry n with lastSeq := seq } s

/-! ### Falling wishes (R36) -/

/-- A composition lowered to the wishes in every part that no pending raise increases (R36). -/
def State.loweredToWishes (s : State) (k : Composition) : Composition :=
  let w := s.wishes
  match s.stu.pending with
  | none => compMeet k w
  | some p =>
    let t := p.target
    let c := s.stu.confirmed
    { base := if t.base && !c.base then k.base else k.base && w.base,
      grind := if t.grind && !c.grind then k.grind else k.grind && w.grind,
      clean := if t.clean && !c.clean then k.clean else k.clean && w.clean,
      heat := if heatCode c.heat < heatCode t.heat then k.heat else heatMin k.heat w.heat }

/-- What the wishes no longer ask for is lowered in the posted and confirmed compositions and in a pending target, the DCU
and the BRC are told, and a PLAIN CLAIM is offered (R36). -/
def stuLower (s : State) : Eff :=
  let posted := s.loweredToWishes s.stu.posted
  let confirmed := s.loweredToWishes s.stu.confirmed
  let pending := s.stu.pending.map fun p => { p with target := s.loweredToWishes p.target }
  if posted = s.stu.posted ∧ confirmed = s.stu.confirmed then (s, [])
  else
    (offerPlainClaim (s.onStu fun u => { u with posted := posted, confirmed := confirmed, pending := pending }),
     if confirmed = s.stu.confirmed then [] else [.claimReport])

/-! ### Rising wishes and retries (R30, R37, R49) -/

/-- The wish for this part asks for what the confirmed composition lacks (R30). -/
def partRises (p : Part) (w c : Composition) : Bool :=
  match p with
  | .base => w.base && !c.base
  | .grind => w.grind && !c.grind
  | .clean => w.clean && !c.clean
  | .heat => heatCode c.heat < heatCode w.heat
  | .any => raisesOver w c

/-- The reports of raised parts to their wishers (R34, R49). -/
def grantedReports (old new : Composition) (s : State) : List Act :=
  (if new.grind && !old.grind && s.stu.grindWish then [Act.grcGranted] else [])
    ++ (if new.clean && !old.clean && s.stu.cleanWish then [Act.clcGranted] else [])

/-- While ISOLATED a wish is settled at once against the solo allowance (R49). -/
def isolatedRise (s : State) : Eff :=
  let t := s.target 0 s.conf.soloAllowance
  let old := s.stu.confirmed
  let s1 := s.onStu fun u => { u with posted := t, confirmed := t }
  (offerPlainClaim s1, (if t = old then [] else [.claimReport]) ++ grantedReports old t s)

/-- A wish for this part may have risen (R30); a rise under a pending raise is held (log 39). While ISOLATED any change of a wish
tries all unmet wishes again (R49). -/
def stuRise (p : Part) (s : State) : Eff :=
  if s.stu.lineState = .isolated then
    (if raisesOver s.wishes s.stu.confirmed then isolatedRise s else (s, []))
  else if !partRises p s.wishes s.stu.confirmed then (s, [])
  else if s.stu.pending.isSome then
    (s.onStu fun u => { u with pending := u.pending.map fun r => { r with heldRise := true } }, [])
  else (offerClaim s, [])

/-- A retry point: unmet wishes are tested against the table, and either a CLAIM is offered or the denied-at time is set
afresh (R37). One that comes while a raise is pending is held until the raise is over, and none acts while ISOLATED (log 9, 10). -/
def stuRetry (s : State) : State :=
  if s.stu.lineState = .isolated ∨ raisesOver s.wishes s.stu.confirmed = false then s
  else if s.stu.pending.isSome then
    s.onStu fun u => { u with pending := u.pending.map fun r => { r with heldRetry := true } }
  else if s.stu.stale = false ∧ raisesOver s.composed s.stu.posted = true then offerClaim s
  else s.onStu fun u => { u with deniedAt := some s.timeBase }

/-- The wishes told by their owners (R30). -/
def stuHeatWish (h : HeatLevel) (s : State) : Eff :=
  if s.stu.heatWish = h then (s, [])
  else (s.onStu fun u => { u with heatWish := h }, [.stuLower, .stuRise .heat])

def stuGrindWish (b : Bool) (s : State) : Eff :=
  if s.stu.grindWish = b then (s, [])
  else (s.onStu fun u => { u with grindWish := b }, [.stuLower, .stuRise .grind])

def stuCleanWish (b : Bool) (s : State) : Eff :=
  if s.stu.cleanWish = b then (s, [])
  else (s.onStu fun u => { u with cleanWish := b }, [.stuLower, .stuRise .clean])

/-! ### Composing at access (R31, R32) -/

/-- The CLAIM body that sends a composition (R4, R29). -/
def claimBody (s : State) (k : Composition) (raise : Bool) : ClaimBody :=
  { seq := s.lau.nextSeq, raise := raise, heat := k.heat, heatUnits := heatUnits s.conf k.heat,
    otherUnits := otherUnits s.conf k, clean := s.cleanStateOf k, lease := s.conf.leaseS }

/-- The STU composes a CLAIM: the state, the body sent, and the reports of a lowered confirmed composition, which are taken
before the frame is sent (R31, R32). A CLAIM that may not raise, or that goes out stale, pending or ISOLATED, carries the
posted composition PLAIN (log 8, 10). -/
def composeClaim (mayRaise : Bool) (s : State) : State × ClaimBody × List Act :=
  if !mayRaise || s.stu.stale || s.stu.pending.isSome || s.stu.lineState == .isolated then
    (s, claimBody s s.stu.posted false, [])
  else
    let t := s.composed
    let denied := if raisesOver s.wishes t then some s.timeBase else none
    let confirmed := compMeet s.stu.confirmed t
    let acts := if confirmed = s.stu.confirmed then [] else [Act.claimReport]
    if raisesOver t s.stu.posted then
      (s.onStu fun u => { u with deniedAt := denied, confirmed := confirmed, posted := compMeet u.posted t,
                                 pending := some { target := t, seq := s.lau.nextSeq, guarded := false, heldRise := false,
                                                   heldRetry := false } },
       claimBody s t true, acts)
    else
      (s.onStu fun u => { u with deniedAt := denied, confirmed := confirmed, posted := t }, claimBody s t false, acts)

/-! ### Settlement and withdrawal (R33 to R35) -/

/-- A wish that is unmet because the raise, as it was composed, left its part out, and not because the raise is denied (R31, R37;
log 9). -/
def State.leftOut (s : State) (p : PendingRaise) : Bool :=
  let w := s.wishes
  let t := p.target
  (w.base && !t.base) || (w.grind && !t.grind) || (w.clean && !t.clean)
    || (heatCode t.heat < heatCode w.heat && heatCode t.heat ≤ heatCode s.stu.confirmed.heat)

/-- A raise in GUARDED settles at the guard end (R34). -/
def stuGuardEnd (s : State) : Eff :=
  match s.stu.pending with
  | some p =>
    if p.guarded then
      let old := s.stu.confirmed
      (s.onStu fun u => { u with confirmed := p.target, pending := none },
       [.claimReport] ++ grantedReports old p.target s ++ [.stuLower, .stuRise .any, .stuRetry])
    else (s, [])
  | none => (s, [])

/-- A raise in GUARDED is withdrawn: the posted composition reverts, the denied-at time is set, a PLAIN CLAIM is offered (R35); a
rise or a retry point held meanwhile acts, and so does the withdrawal itself for a wish that the raise had left out (R30, R37; log 9,
39). DENIED leaves the states of the GRC, the CLC and the BRC as they are (R91, R110, R178). -/
def stuWithdraw (s : State) : Eff :=
  match s.stu.pending with
  | some p =>
    if p.guarded then
      (offerPlainClaim (s.onStu fun u => { u with posted := u.confirmed, pending := none, deniedAt := some s.timeBase }),
       .stuLower :: ((if p.heldRise then [.stuRise .any] else []) ++ (if p.heldRetry || s.leftOut p then [.stuRetry] else [])))
    else (s, [])
  | none => (s, [])

/-- A QUEUED raise whose frame failed is discarded; a give-up also sets the denied-at time (R33). A wish that fell under it in a part
that it increased stays: R36 names the settlement and the withdrawal alone (the model's choice, log 54). -/
def stuClaimFailed (seq : Nat) (givenUp : Bool) (s : State) : State :=
  match s.stu.pending with
  | some p =>
    if p.seq = seq ∧ p.guarded = false then
      s.onStu fun u => { u with pending := none, deniedAt := if givenUp then some s.timeBase else u.deniedAt }
    else s
  | none => s

/-! ### The stale mark (R41 to R43) -/

/-- The stale mark is set (R41). -/
def staleMark (full : Bool) (s : State) : State :=
  let awaited := s.peers.map (·.1)
  let s1 := s.onStu fun u => { u with
    stale := true, staleClearTime := s.timeBase + s.conf.leaseS * 1000, awaited := awaited,
    fullLease := u.fullLease || full,
    table := u.table.map fun e => if e.live then { e with heardSinceStale := false } else e }
  match s.stu.lastJoinPosted with
  | some t => if s.timeBase < t + s.conf.leaseS * 1000 then s1 else offerFrame .join s1
  | none => offerFrame .join s1

/-- The stale mark clears; the PYU is told, and a retry point follows (R43). -/
def staleClear (s : State) : Eff :=
  (s.onStu fun u => { u with stale := false, fullLease := false, awaited := [] }, [.pyuStaleCleared, .stuRetry])

/-- An entry leaves the awaited set (R43). -/
def leaveAwaited (n : Nat) (s : State) : State := s.onStu fun u => { u with awaited := u.awaited.filter (· != n) }

/-- An entry of the awaited set is heard: it leaves the set, and the last of the set to be heard clears the mark, unless the
full-lease mark is set (R43). -/
def heardAwaited (n : Nat) (s : State) : Eff :=
  let s1 := leaveAwaited n s
  if s.stu.stale && s.stu.awaited.contains n && s1.stu.awaited.isEmpty && !s.stu.fullLease then staleClear s1 else (s1, [])

/-- A lease expires: the entry becomes ABSENT, and its badge and its total are given up; it leaves the awaited set unheard, which does
not clear the stale mark (R26, R43; log 11). -/
def leaseExpire (n : Nat) (s : State) : Eff :=
  let old := s.entry n
  (leaveAwaited n (setEntry n (expiredEntry old) s),
   (match old.held with | some h => [Act.pyuHoldCleared h.badge] | none => []) ++ (if 0 < entryTotal old then [.stuRetry] else []))

/-- A hold deadline is reached: the held badge alone is cleared (R26). -/
def holdExpire (n : Nat) (s : State) : Eff :=
  let old := s.entry n
  (setEntry n { old with held := none } s, match old.held with | some h => [.pyuHoldCleared h.badge] | none => [])

/-- A damaged frame reported by the LAU: a GUARDED raise is withdrawn and the table is marked stale (R35, R41). The withdrawal comes
first, so that its PLAIN CLAIM stands before the JOIN (the model's choice, log 55). -/
def stuDamaged (s : State) : Eff :=
  let e := stuWithdraw s
  (staleMark false e.1, e.2)

/-! ### Delivered frames (R24, R25, R27, R38, R39, R45) -/

/-- The dispute test of a delivered RAISE (R38, R49). -/
def disputeTest (n seq : Nat) (wasCleaning : Bool) (clean : CleanState) (s : State) : State :=
  if s.stu.stale || s.stu.lineState == .isolated then s
  else if s.stu.effBudget < s.lineTotal then offerFrame (.dispute n seq .budget) s
  else if clean = .cleaning ∧ wasCleaning = false ∧ s.stu.effCleanLimit < s.cleanCount then
    offerFrame (.dispute n seq .cleanLimit) s
  else s

/-- A CLAIM delivered from station `n` (R24, R38). -/
def stuClaim (n : Nat) (b : ClaimBody) (s : State) : Eff :=
  let old := s.entry n
  let s1 := setEntry n { old with live := true, leaseDeadline := s.timeBase + b.lease * 1000, lastSeq := b.seq, heat := b.heat,
                                  heatUnits := b.heatUnits, otherUnits := b.otherUnits, clean := b.clean,
                                  heardSinceStale := true } s
  let e := heardAwaited n s1
  let s2 := if b.raise then disputeTest n b.seq (old.clean == .cleaning) b.clean e.1 else e.1
  (s2, e.2 ++ (if b.heatUnits + b.otherUnits < entryTotal old then [.stuRetry] else []))

/-- A HOLD delivered from station `n` updates its entry and is passed to the PYU (R25, R152, R153). -/
def stuHold (n : Nat) (b : HoldBody) (s : State) : Eff :=
  let old := { s.entry n with lastSeq := b.seq }
  if b.take then
    let e1 := if old.live then old
      else { old with live := true, heat := .off, heatUnits := 0, otherUnits := 0, clean := .none,
                      leaseDeadline := s.timeBase + s.conf.leaseS * 1000 }
    (setEntry n { e1 with held := some { badge := b.badge, seq := b.seq, deadline := s.timeBase + b.lease * 1000 } } s,
     [.pyuHoldTest n b.badge b.seq])
  else if (old.held.map HeldBadge.badge) = some b.badge then
    (setEntry n { old with held := none } s, [.pyuHoldCleared b.badge])
  else (setEntry n old s, [])

/-- CONFIG_MISMATCH for a value heard that differs from the own one, once per distinct value of a field (R27). -/
def noteMismatch (code own heard : Nat) (seen : List Nat) (note : Nat → Stu → Stu) (s : State) : State :=
  if heard = own ∨ seen.contains heard = true then s
  else postNotice .configMismatch none code heard 0 (s.onStu (note heard))

/-- A JOIN delivered from another station (R27). Its notices come in the order budget, clean limit, lease (the model's choice,
log 67). -/
def stuJoin (b : JoinBody) (s : State) : Eff :=
  let c := s.conf
  let s1 := s.onStu fun u => { u with effBudget := min u.effBudget b.budget, effCleanLimit := min u.effCleanLimit b.cleanLimit }
  let s2 := noteMismatch 1 c.budget b.budget s1.stu.heardBudgets
    (fun v u => { u with heardBudgets := u.heardBudgets ++ [v] }) s1
  let s3 := noteMismatch 2 c.cleanLimit b.cleanLimit s2.stu.heardCleanLimits
    (fun v u => { u with heardCleanLimits := u.heardCleanLimits ++ [v] }) s2
  let s4 := noteMismatch 3 c.leaseS b.lease s3.stu.heardLeases
    (fun v u => { u with heardLeases := u.heardLeases ++ [v] }) s3
  (offerPlainClaim s4, [.pyuJoin])

/-- A queued unsent DISPUTE of this pair is removed (R14). -/
def dropDispute (target targetSeq : Nat) (s : State) : State :=
  s.onLau fun l => { l with queue := l.queue.filter fun t => match t.offer with
    | .dispute a b _ => !(a == target && b == targetSeq && t.sent.isNone)
    | _ => true }

/-- A DISPUTE delivered from station `n` (R14, R35, R39). -/
def stuDispute (n : Nat) (b : DisputeBody) (s : State) : Eff :=
  let s1 := dropDispute b.target b.targetSeq (noteSeq n b.seq s)
  if b.target = s.conf.station then
    match s1.stu.pending with
    | some p => if p.guarded && p.seq == b.targetSeq then stuWithdraw s1 else (s1, [.pyuDispute b.targetSeq])
    | none => (s1, [.pyuDispute b.targetSeq])
  else (s1, [])

/-- The conditions under which a NEED steps this station down (R45). -/
def State.stepsDown (s : State) : Bool := !s.oru.cupPending && s.stu.posted.heat != .off && !s.inStretch

/-- A NEED delivered from station `n` (R39, R45). -/
def stuNeedHeard (n : Nat) (b : NeedBody) (s : State) : Eff :=
  let s1 := noteSeq n b.seq s
  if s.stepsDown then
    let d := max (s.stu.stepDown.getD 0) (s.timeBase + b.holdTime * 1000)
    let s2 := s1.onStu fun u => { u with stepDown := some d }
    (s2.onBrc fun u => { u with steppedDown := true }, [.stuLower, .brcRegulator, .clcStepDown])
  else (s1, [])

/-- A step-down ends: by its deadline or by an admission (R46). -/
def stuStepDownEnd (s : State) : Eff :=
  if s.stu.stepDown.isNone then (s, [])
  else
    let s1 := s.onStu fun u => { u with stepDown := none }
    (s1.onBrc fun u => { u with steppedDown := false }, [.brcRegulator, .stuRise .heat, .stuRetry])

/-! ### NEED (R44) -/

/-- The conditions of the unmet-since time (R44). -/
def State.unmet (s : State) : Bool :=
  s.oru.cupPending && ((s.stu.grindWish && !s.stu.confirmed.grind)
    || ((s.wishes.heat == .half || s.wishes.heat == .full) && decide (heatCode s.stu.confirmed.heat < heatCode s.wishes.heat)))

/-- The need record follows its conditions (R44). -/
def stuNeed (s : State) : State :=
  if s.unmet then (if s.stu.unmetSince.isSome then s else s.onStu fun u => { u with unmetSince := some s.timeBase })
  else (if s.stu.unmetSince.isSome then s.onStu fun u => { u with unmetSince := none } else s)

/-! ### Line state (R47 to R50) -/

/-- The steps of R48 by which the confirmed composition is lowered to the solo allowance: heat first, one level at a time,
then grind, then base, and the clean slot with base. -/
def soloSteps (k : Composition) : List Composition :=
  let h1 := { k with heat := heatDown k.heat }
  let h2 := { k with heat := heatDown h1.heat }
  let h3 := { k with heat := heatDown h2.heat }
  let g := { h3 with grind := false }
  [k, h1, h2, h3, g, { g with base := false, clean := false }]

/-- The confirmed composition within the solo allowance (R48). -/
def soloLowered (c : Cfg) (k : Composition) : Composition :=
  ((soloSteps k).find? fun k => decide (compTotal c k ≤ c.soloAllowance)).getD { k with heat := .off, grind := false, base := false, clean := false }

/-- Entry to ISOLATED (R48). DENIED leaves its receivers' states as they are. A wish that fell under the discarded raise in a part
that it increased waits for the next lowering (the model's choice, log 54). -/
def isolate (s : State) : Eff :=
  let old := s.stu.confirmed
  let k := soloLowered s.conf old
  let s1 := s.onStu fun u => { u with lineState := .isolated, pending := none, confirmed := k, posted := k }
  (offerPlainClaim s1,
   (if k = old then [] else [.claimReport])
   ++ (if old.grind && !k.grind then [.grcWithdrawn] else [])
   ++ (if old.base && !k.base then [.brcLineLost, .clcLineLost] else [])
   ++ [.post .isolated none 0 0 0])

/-- The renewal period in ms (R40). -/
def State.renewalPeriod (s : State) : Nat := max 1 (s.conf.leaseS / 3) * 1000

/-- A renewal due: a PLAIN CLAIM is offered and the isolation test is made (R40, R47). -/
def renewal (s : State) : Eff :=
  let s1 := offerPlainClaim (s.onStu fun u => { u with lastRenewalDue := s.timeBase })
  if s.stu.lineState ≠ .isolated ∧ s.stu.lastClaimPosted + s.conf.leaseS * 1000 ≤ s.timeBase then isolate s1 else (s1, [])

/-- A posting of any own frame leaves ISOLATED (R50). -/
def rejoin (s : State) : Eff :=
  if s.stu.lineState = .isolated then
    (staleMark true (s.onStu fun u => { u with lineState := .online }), [.post .rejoined none 0 0 0, .brcHeat])
  else (s, [])

end Sys2Proof.Machine
end

