-- ==== Sys2Proof/Machine/Line.lean ====
section
/-! DEFINITION. The Line Access Unit: the receiver, delivery of frames, access, collision, posting and the guard end
(R5 to R11, R16 to R21), with what the STU makes of the reports on its own frames (R33, R47, R50). -/

namespace Sys2Proof.Machine

/-! ### Delivery (R10, R11) -/

/-- A frame that sets the raise guard at its end (R17). -/
def guardsRaise : Frame → Bool
  | .claim b => b.raise
  | .hold b => b.take
  | _ => false

/-- The end of a complete frame, a stop bit: the guard is set for a raise or a take, and the receiver returns to HUNT (R10, R17). -/
def frameEnd (f : Frame) (s : State) : State := toHunt (if guardsRaise f then setGuard (setLine false s) else setLine false s)

/-- A frame delivered to the STU (R24, R25, R27, R39, R45). -/
def stuDeliver (n : Nat) (f : Frame) (s : State) : Eff :=
  match f with
  | .join b => stuJoin b s
  | .claim b => stuClaim n b s
  | .hold b => stuHold n b s
  | .need b => stuNeedHeard n b s
  | .dispute b => stuDispute n b s

/-- A complete frame that carries the own number and is not the own transmission is discarded; the first after a reset
posts LINE_TROUBLE SAME_STATION (R11). -/
def sameStation (f : Frame) (s : State) : State :=
  let s1 := frameEnd f s
  if s.lau.sameStationArmed then
    postNotice .lineTrouble none 3 (frameKindCode (frameKind f)) 0 (s1.onLau fun l => { l with sameStationArmed := false })
  else s1

/-- A complete frame from the line that is not the own transmission (R10). -/
def deliver (n : Nat) (f : Frame) (s : State) : Eff :=
  if n = s.conf.station then (sameStation f s, []) else stuDeliver n f (frameEnd f s)

/-- A synchronised frame is abandoned as damaged: HUNT, the guard set, the damage reported to the STU (R9, R10, R17). -/
def damaged (s : State) : Eff := stuDamaged (toHunt (setGuard s))

/-! ### Posting (R21, R33, R47, R50, R147) -/

/-- The frame this station has on the line, with the offer it came from. -/
def State.ownFrame (s : State) : Option (Offer × Sent) :=
  s.lau.queue.findSome? fun t => t.sent.map fun f => (t.offer, f)

/-- The queue after a posting: the slot leaves, or moves to the tail with its stored content (R13, R21). -/
def postedQueue (q : List TxSlot) : List TxSlot :=
  q.filter (fun t => t.sent.isNone) ++ q.filterMap fun t => if t.sent.isSome then t.again.map newSlot else none

/-- The posting of an own CLAIM: its time, the first one's line state, and a QUEUED raise that it carries (R33, R47). -/
def claimPosted (seq : Nat) (s : State) : State :=
  s.onStu fun u => match u.pending with
    | some p =>
      let u1 := { u with lastClaimPosted := s.timeBase, lineState := if u.lineState = .joining then .online else u.lineState }
      if p.seq = seq ∧ p.guarded = false then { u1 with posted := p.target, pending := some { p with guarded := true } } else u1
    | none => { u with lastClaimPosted := s.timeBase, lineState := if u.lineState = .joining then .online else u.lineState }

/-- What the originator of a posted frame makes of the report. -/
def notePosted (o : Offer) (seq : Nat) (s : State) : Eff :=
  match o with
  | .claim _ => (claimPosted seq s, if s.stu.lineState = .joining then [.brcHeat] else [])
  | .join => (s.onStu fun u => { u with lastJoinPosted := some s.timeBase }, [])
  | .need => (s.onStu fun u => { u with lastNeedPosted := some s.timeBase }, [])
  | .holdTake _ tag => (s, [.pyuTakePosted tag seq])
  | .holdFree _ => (s, [])
  | .dispute _ _ _ => (s, [])

/-- The own frame ends without collision: the slot is settled, the guard set for a raise or take, the originator told, and
ISOLATED is left (R21, R50). -/
def framePosted (s : State) : Eff :=
  match s.ownFrame with
  | none => (s, [])
  | some (o, f) =>
    let s1 := frameEnd f.frame (s.onLau fun l => { l with queue := postedQueue l.queue })
    let e1 := notePosted o f.seq s1
    let e2 := rejoin e1.1
    (e2.1, e1.2 ++ e2.2)

/-! ### Collision (R18, R19) -/

/-- A slot after a failed attempt: one attempt more with the latest content, or given up at the eighth (R13, R19; log 12). -/
def collidedSlot (t : TxSlot) : Option TxSlot :=
  if t.sent.isNone then some t
  else if t.attempts < 7 then
    some { offer := match t.again with | some a => mergeOffer t.offer a | none => t.offer,
           attempts := t.attempts + 1, again := none, sent := none }
  else t.again.map newSlot

/-- What the originator makes of FAILED or GIVEN_UP (R19, R33, R147). -/
def noteFailed (o : Offer) (seq : Nat) (givenUp : Bool) (s : State) : Eff :=
  match o with
  | .claim _ => (stuClaimFailed seq givenUp s, [])
  | .holdTake _ tag => (s, if givenUp then [.pyuTakeGivenUp tag] else [])
  | .join | .need | .holdFree _ | .dispute _ _ _ => (s, [])

/-- The attempt in transmission is the eighth (R19). -/
def State.eighthAttempt (s : State) : Bool := s.lau.queue.any fun t => t.sent.isSome && decide (7 ≤ t.attempts)

/-- A bit of the own frame reads back other than sent, so that the line is low where it was sent high; the idle interval that follows
is guarded if the flag is set now (R15, R18, R19). -/
def collision (s : State) : Eff :=
  match s.ownFrame with
  | none => (s, [])
  | some (o, f) =>
    let s1 := (setLine (!s.slDeLine) s).onLau fun l => { l with queue := l.queue.filterMap collidedSlot, intervalGuarded := l.guard }
    let e := noteFailed o f.seq s.eighthAttempt s1
    if s.eighthAttempt then (e.1, e.2 ++ [.post .lineTrouble none 2 (frameKindCode (offerKind o)) 0]) else e

/-! ### Access (R16, R31, R38, R44, R147) -/

/-- The content of a HOLD TAKE, or its withdrawal, which ends a payment whose hold is QUEUED (R147). -/
def answerTake (badge : Badge) (tag : Nat) (s : State) : Option Frame × List Act :=
  match s.pyu.payment with
  | none => (none, [])
  | some p =>
    if p.tag ≠ tag then (none, [])
    else if s.peerHolds badge 0 then (none, if p.hold = .queued then [.pyuEndUnpaid .badgeBusy] else [])
    else (some (.hold { seq := s.lau.nextSeq, take := true, badge := badge, lease := s.conf.holdLeaseS }), [])

/-- The originator's answer to a content request: the frame it supplies, or none for a withdrawal. -/
def answerOffer (o : Offer) (s : State) : State × Option Frame × List Act :=
  match o with
  | .join => (s, some (.join { budget := s.conf.budget, cleanLimit := s.conf.cleanLimit, lease := s.conf.leaseS }), [])
  | .claim mayRaise =>
    let r := composeClaim mayRaise s
    (r.1, some (.claim r.2.1), r.2.2)
  | .need =>
    if s.unitsShort = 0 then (s, none, [])
    else (s, some (.need { seq := s.lau.nextSeq, units := min 255 s.unitsShort, holdTime := s.conf.needHoldS }), [])
  | .dispute target targetSeq reason =>
    if s.stu.stale then (s, none, [])
    else (s, some (.dispute { seq := s.lau.nextSeq, target := target, targetSeq := targetSeq, reason := reason }), [])
  | .holdTake badge tag =>
    let r := answerTake badge tag s
    (s, r.1, r.2)
  | .holdFree badge =>
    (s, some (.hold { seq := s.lau.nextSeq, take := false, badge := badge, lease := s.conf.holdLeaseS }), [])

/-- The queue with slot `k` in transmission. -/
def sendSlot (k : Nat) (f : Sent) (q : List TxSlot) : List TxSlot := q.modify k fun t => { t with sent := some f }

/-- The break begins: the slot is in transmission, the frame sequence advances, the line is low (R6, R16). -/
def beginFrame (k : Nat) (f : Frame) (s : State) : State :=
  s.onLau fun l => { l with queue := sendSlot k { seq := l.nextSeq, frame := f } l.queue, nextSeq := (l.nextSeq + 1) % 256,
                            txBit := 0, idleTimer := 0, guardCount := 0 }

/-- A withdrawn frame leaves the queue (R16). -/
def withdrawSlot (k : Nat) (s : State) : State := s.onLau fun l => { l with queue := l.queue.eraseIdx k }

/-- The slot at place `k` wins access: its content is supplied and the break begins, or it is withdrawn and the rest of the
queue is examined against the same idle timer (R16). -/
def accessAt (k : Nat) (s : State) : Eff :=
  match s.lau.queue[k]? with
  | none => (s, [])
  | some t =>
    let r := answerOffer t.offer s
    match r.2.1 with
    | some f => (beginFrame k f r.1, r.2.2)
    | none => (withdrawSlot k r.1, r.2.2 ++ [.lauAccess])

/-- Access is won by the oldest slot whose gap is reached (R16). -/
def lauAccess (s : State) : Eff :=
  match s.winner with
  | some k => accessAt k s
  | none => (s, [])

/-! ### The guard end (R14, R17, R34) -/

/-- The raise guard ends: the flag clears, unsent DISPUTEs leave the queue, and the STU and the PYU are told. -/
def guardEnd (s : State) : Eff :=
  let s1 := s.onLau fun l => { l with
    guard := false, guardCount := 0,
    queue := l.queue.filter fun t => offerKind t.offer != .dispute || t.sent.isSome }
  let e := stuGuardEnd s1
  (e.1, e.2 ++ [.pyuGuardEnd])

/-! ### The receiver (R7 to R10, R207) -/

/-- A received frame that passes the check, the length test and the field tests (R5, R10, R207). -/
def rxFrame (f : RxFrame) : Option Frame :=
  let head := [byteOf (frameKindCode f.kind * 16 + f.sender), byteOf f.body.length] ++ f.body
  if f.body.length = frameKindLength f.kind ∧ numberOf f.check = crc16 head then frameOfBody f.kind f.body else none

/-- The end of the second check character (R10). -/
def rxComplete (f : RxFrame) (s : State) : Eff :=
  match rxFrame f with
  | none => damaged s
  | some frame =>
    if f.sender = s.conf.station ∧ s.transmitting = true then framePosted s else deliver f.sender frame s

/-- The header test of SYNC (R8). -/
def rxHeader (data : Byte) (s : State) : State :=
  match frameKindOfCode (data.toNat / 16) with
  | none => toHunt s
  | some kind =>
    if data.toNat % 16 = 0 then toHunt s
    else s.onLau fun l => { l with receiver := .body { kind := kind, sender := data.toNat % 16, length := none, body := [], check := [] } }

/-- A character in BODY: the length, then the body (R9). -/
def rxBody (f : RxFrame) (data : Byte) (s : State) : Eff :=
  match f.length with
  | none =>
    if 20 < data.toNat then damaged s
    else
      let f1 := { f with length := some data.toNat }
      (s.onLau fun l => { l with receiver := if data.toNat = 0 then .check f1 else .body f1 }, [])
  | some n =>
    let f1 := { f with body := f.body ++ [data] }
    (s.onLau fun l => { l with receiver := if f1.body.length < n then .body f1 else .check f1 }, [])

/-- A character in CHECK (R10). -/
def rxCheck (f : RxFrame) (data : Byte) (s : State) : Eff :=
  let f1 := { f with check := f.check ++ [data] }
  if f1.check.length < 2 then (s.onLau fun l => { l with receiver := .check f1 }, []) else rxComplete f1 s

/-- A character taken by the receiver (R8 to R10). In HUNT it is discarded; its low levels restart the idle timer (log 6). -/
def rxTake (data : Byte) (flag framingError : Bool) (s : State) : Eff :=
  match s.lau.receiver with
  | .off => (s, [])
  | .hunt => (restartIdle s, [])
  | .sync _ => (if framingError || !flag then toHunt s else rxHeader data s, [])
  | .body f => if framingError || flag then damaged s else rxBody f data s
  | .check f => if framingError || flag then damaged s else rxCheck f data s

/-- A character with its stop bit, which shows the level of the line at its end (R2). -/
def rxCharacter (data : Byte) (flag framingError : Bool) (s : State) : Eff := rxTake data flag framingError (setLine framingError s)

/-- A low level reaches 12 bt in HUNT (R7); while this station sends, it is its own break. -/
def lineBreak (s : State) : State :=
  if s.lau.receiver = .hunt then
    (setLine (s.pins.lineLow || !s.transmitting) s).onLau fun l => { l with receiver := .sync false, idleTimer := 0, guardCount := 0 }
  else s

/-- The break ends, the line high, and the header window opens (R8). -/
def syncOpen (s : State) : State :=
  if s.lau.receiver = .sync false then (setLine false s).onLau fun l => { l with receiver := .sync true } else s

/-- The header window closes (R8). The window was idle, so the guard count runs on (R17). -/
def syncClose (s : State) : State :=
  if s.lau.receiver = .sync true then (toHunt s).onLau fun l => { l with guardCount := s.lau.guardCount } else s

/-- More than 22 bt of idle inside a synchronised frame (R9). -/
def rxIdle (s : State) : Eff :=
  match s.lau.receiver with
  | .body _ => damaged (setLine false s)
  | .check _ => damaged (setLine false s)
  | .off | .hunt | .sync _ => (s, [])

/-- A low level, and whether the line is low still. In HUNT it restarts the idle timer, and any low level restarts the guard count
(R15, R17). -/
def lineLow (stillLow : Bool) (s : State) : State :=
  let s1 := setLine stillLow s
  match s.lau.receiver with
  | .hunt => restartIdle s1
  | .off => s1
  | .sync _ | .body _ | .check _ => s1.onLau fun l => { l with guardCount := 0 }

end Sys2Proof.Machine
end

