-- ==== Sys2Proof/Machine/Grind.lean ====
section
/-! DEFINITION. The Grind Controller: taking, running and closing a grind, overloads, the service grind (R88 to R102). -/

namespace Sys2Proof.Machine

/-! ### Target and acceptance (R89, R90) -/

/-- The target of a grind in counts (R89). -/
def grindTarget (c : Cfg) (dose strength : Nat) : Nat :=
  min 65535 (max 1 (dose * c.countsPerDecigram * (70 + 10 * strength) / 100))

/-- Why a GRIND request is refused, if it is (R90). -/
def State.grindTest (s : State) : Option GrindRefusal :=
  if s.grc.state ≠ .idle ∨ s.grc.serviceWish = true then some .busy
  else if s.grc.fault then some .fault
  else if !s.pins.brTop then some .notTop
  else none

/-- The record returns to G_IDLE with its optional fields absent (R88). -/
def grcIdle (s : State) : State :=
  s.onGrc fun g => { g with state := .idle, job := none, waitDeadline := none, held := none }

/-- The report of the grind in hand to the ORU (R101). -/
def grindReport (s : State) (o : GrindOutcome) (count : Nat) (mode : RunMode) : List Act :=
  match s.grc.job with
  | some j => [.oruGrindReport { order := j.order, outcome := o, count := count, mode := mode, target := j.target }]
  | none => []

/-- A GRIND request that passes the tests of R90 is accepted; an open lid ends it at once FAILED LID_OPEN without a wish (R95). -/
def grindAccept (order recipe strength : Nat) (s : State) : Eff :=
  let target := grindTarget s.conf (s.recipe recipe).dose strength
  let s1 := s.onGrc fun g => { g with
    state := .waitPower, job := some { order := order, recipe := recipe, strength := strength, target := target },
    waitDeadline := some (s.timeBase + s.conf.grindPowerWaitS * 1000) }
  if s.pins.lidOpen then (grcIdle s1, grindReport s1 (.failed .lidOpen) 0 .counted)
  else (s1, [.stuGrindWish true])

/-! ### Ends without a run (R92, R95, R98, R100) -/

/-- A grind that ends in G_WAIT_POWER: the wish falls, the report carries count 0 and mode COUNTED. -/
def endWaiting (o : GrindOutcome) (s : State) : Eff :=
  (grcIdle s, [.stuGrindWish false] ++ grindReport s o 0 .counted)

/-- The power wait ends (R92). -/
def grindPowerEnd (s : State) : Eff :=
  if s.grc.state = .waitPower then endWaiting (.failed .noPower) s else (s, [])

/-! ### Overloads (R96, R97) -/

/-- An overload is counted; the second sets the grinder fault latch, with its stop event and notice (R96, R97). The
FAULT_SET of R137 comes after both (the model's choice, log 47). -/
def countOverload (s : State) : Eff :=
  let n := min 2 (s.grc.overloads + 1)
  if 2 ≤ n then
    (s.onGrc fun g => { g with overloads := n, fault := true },
     [.stopEvent .grinderFault, .post .fault (s.grc.job.map GrindJob.order) Reason.grinderFault.code 0 0, .oruFaultSet])
  else (s.onGrc fun g => { g with overloads := n }, [])

/-- A grind fails or is cancelled while its counter is armed: GRINDER OFF, the counter is disarmed, the wish falls, and the
RUN_ENDED of the disarm completes it (R93, R95, R96, R98, R100). -/
def failRun (o : GrindOutcome) (overload : Bool) (s : State) : Eff :=
  let s1 := (setGrinder false s).onGrc fun g => { g with state := .stop, waitDeadline := none, held := some o }
  let e := disarm .grind s1
  let f := if overload then countOverload e.1 else (e.1, [])
  (f.1, f.2 ++ [.stuGrindWish false] ++ e.2)

/-! ### Running (R93, R94, R99) -/

/-- GRANTED for grind (R91, R93). -/
def grcGranted (s : State) : Eff :=
  if s.grc.state = .waitPower then
    (s, [.cnuArm .grind .grc ((s.grc.job.map GrindJob.target).getD 1), .grcStartGrinder])
  else (s, [])

/-- The counter is armed: GRINDER is asked ON, and a refusal fails the grind by the lines as they stand (R93). -/
def grcStartGrinder (s : State) : Eff :=
  if s.grc.state ≠ .waitPower then (s, [])
  else match grinderOn s with
    | some s1 => (s1.onGrc fun g => { g with state := .run, waitDeadline := none }, [])
    | none =>
      if s.pins.lidOpen then failRun (.failed .lidOpen) false s
      else if s.pins.grOvld then failRun (.failed .grinderOverload) true s
      else failRun (.failed .noPower) false s

/-- The record after a completed run: the counter is released, the record is empty. -/
def grindClosed (s : State) : State := grcIdle (releaseGrind s)

/-- RUN_ENDED reaches the GRC (R94, R98, R99). -/
def grcRunEnded (cap : Capture) (s : State) : Eff :=
  match s.grc.state with
  | .run =>
    match cap.cause with
    | .target | .time =>
      ((grindClosed s).onGrc fun g => { g with overloads := 0 }, [.stuGrindWish false] ++ grindReport s .done cap.count cap.mode)
    | .stop => (grindClosed s, [.stuGrindWish false] ++ grindReport s .cancelled cap.count cap.mode)
    | .disarm => (s, [])
  | .stop => (grindClosed s, grindReport s (s.grc.held.getD .cancelled) cap.count cap.mode)
  | .idle | .waitPower => (s, [])

/-! ### Reports from outside (R91, R95, R96, R98, R100) -/

/-- WITHDRAWN for grind (R91, R98). -/
def grcWithdrawn (s : State) : Eff :=
  if s.grc.state = .run then failRun (.failed .lineLost) false s else (s, [])

/-- The service grind wish is cleared (R102). -/
def clearServiceWish (s : State) : Eff :=
  if s.grc.serviceWish then (s.onGrc fun g => { g with serviceWish := false }, [.stuGrindWish false]) else (s, [])

/-- A stop event reaches the GRC (R98, R102). -/
def grcStop (s : State) : Eff :=
  match s.grc.state with
  | .waitPower => endWaiting .cancelled s
  | .run => (s.onGrc fun g => { g with state := .stop, held := some .cancelled }, [.stuGrindWish false])
  | .idle | .stop => clearServiceWish s

/-- The answer to a CANCEL_GRIND that names an order (R100). -/
def State.cancelGrindAnswer (s : State) (order : Nat) : GrindCancelAnswer :=
  if s.grc.job.map GrindJob.order ≠ some order then .noRun
  else match s.grc.state with
    | .idle => .noRun
    | .waitPower | .run => .ok
    | .stop => .ending

/-- The effect of a CANCEL_GRIND that is answered OK, by state (R100). -/
def cancelledGrind (s : State) : Eff :=
  match s.grc.state with
  | .waitPower => endWaiting .cancelled s
  | .run => failRun .cancelled false s
  | .idle | .stop => (s, [])

/-- CANCEL_GRIND from the cup run: its effect where it has one, and its answer (R100). -/
def cancelGrind (order : Nat) (s : State) : Eff :=
  let answer := s.cancelGrindAnswer order
  let e := if answer = .ok then cancelledGrind s else (s, [])
  (e.1, e.2 ++ [.brcGrindCancelAnswer answer])

/-- What the DCU does at an assertion of LID_OPEN or GR_OVLD: GRINDER takes OFF, and the service grind mark is cleared (R59, R66). -/
def grinderLineAsserted (s : State) : State :=
  (setGrinder false s).onDcu fun u => { u with serviceGrind := false }

/-- LID_OPEN changes (R59, R66, R95, R102). -/
def lidChange (asserted : Bool) (s : State) : Eff :=
  let s1 := s.onPins fun p => { p with lidOpen := asserted }
  if !asserted || s.pins.lidOpen || !s.working then (s1, [])
  else
    let s2 := grinderLineAsserted s1
    match s.grc.state with
    | .waitPower => endWaiting (.failed .lidOpen) s2
    | .run => failRun (.failed .lidOpen) false s2
    | .idle | .stop => clearServiceWish s2

/-- GR_OVLD changes (R59, R66, R96, R102). -/
def overloadChange (asserted : Bool) (s : State) : Eff :=
  let s1 := s.onPins fun p => { p with grOvld := asserted }
  if !asserted || s.pins.grOvld || !s.working then (s1, [])
  else
    let s2 := grinderLineAsserted s1
    match s.grc.state with
    | .run => failRun (.failed .grinderOverload) true s2
    | .waitPower => (s2, [])
    | .idle | .stop =>
      let e := clearServiceWish s2
      if s.dcu.serviceGrind && s.dcu.grinder then
        let f := countOverload e.1
        (f.1, e.2 ++ f.2)
      else e

end Sys2Proof.Machine
end

