-- ==== Sys2Proof/Machine/Brew.lean ====
section
/-! DEFINITION. The Brew Controller: the brew unit, brewer motion, the cup run, aborts and the clean-out eject, the drawer,
the boiler and the standby timer (R103 to R121). -/

namespace Sys2Proof.Machine

/-! ### The record in hand -/

def setRun (f : CupRun → CupRun) (s : State) : State := s.onBrc fun b => { b with run := b.run.map f }

/-- The cup run that holds the unit. -/
def State.cupRun (s : State) : Option CupRun := if s.brc.unit = .cup then s.brc.run else none

/-- The kind of the step that holds the unit (R104). -/
def State.unitStep (s : State) : Option StepKind := if s.brc.unit = .step then s.brc.step.map StepService.kind else none

/-! ### Heat and regulator (R117, R119, R120) -/

/-- The regulator state is recomputed; a change is reported to the DCU, and READY to the work that waits for it (R104, R110, R117). -/
def brcRegulator (s : State) : Eff :=
  let r := s.regulatorNow
  if r = s.brc.regulator then (s, [])
  else
    let s1 := reportRegulator (s.onBrc fun b => { b with regulator := r })
    if r ≠ .ready then (s1, [])
    else if s.cupRun.any (fun c => c.state == .heatWait && c.abort.isNone) then (s1, [.brcEnter .extract])
    else if s.unitStep = some .heatWait then (s1, [.clcReady])
    else (s1, [])

/-- The heat wish is recomputed and told to the STU at a change (R119). -/
def brcHeat (s : State) : Eff :=
  let h := s.heatWishNow
  if h = s.brc.heatWish then (s, [])
  else (s.onBrc fun b => { b with heatWish := h }, [.stuHeatWish h, .brcRegulator])

/-- The standby timer starts when its conditions begin to hold and stops when one ceases (R120). -/
def brcStandby (s : State) : State :=
  if s.standbyConditions then
    (if s.brc.standbySince.isSome then s else s.onBrc fun b => { b with standbySince := some s.timeBase })
  else (if s.brc.standbySince.isSome then s.onBrc fun b => { b with standbySince := none } else s)

/-- The standby mark is cleared, and the timer stops where its conditions have ceased with the event (R120). -/
def clearStandby (s : State) : Eff :=
  let s1 := brcStandby s
  if s.brc.standby then (s1.onBrc fun b => { b with standby := false }, [.brcHeat]) else (s1, [])

/-! ### Brewer motion (R106) -/

/-- BREWER stops and the move in hand is forgotten; the position is taken from the switches. -/
def moveOver (s : State) : State :=
  (setBrewer .stop s).onBrc fun b => { b with move := none, position := s.positionNow }

/-- A stop has ended the move in hand of a step, if there is one: the CLC is told MOVE_STOPPED (R104). -/
def State.moveStopped (s : State) : List Act := if s.brc.move.isSome then [.clcMoveStopped] else []

/-- No further stroke of a step is made (R104). -/
def strokesOver (s : State) : State := s.onBrc fun b => { b with step := b.step.map fun k => { k with strokesLeft := 0 } }

/-- A move is asked for: it ends at once at its end switch, and otherwise BREWER is driven and the move deadline set. No move
starts with the brewer-stuck latch set or base permission clear (R60, R106). -/
def brcMove (up : Bool) (s : State) : Eff :=
  if s.brc.position = (if up then .top else .bottom) then (s, [.brcArrived up])
  else if s.brc.stuck || !s.dcu.basePerm then (s, [])
  else
    ((setBrewer (if up then .up else .down) s).onBrc fun b =>
      { b with move := some { up := up, deadline := s.timeBase + s.conf.motionLimitS * 1000 } }, [])

/-- The brewer-stuck latch is set, with its stop event and notice; code LIMIT is 1 and SWITCHES is 2 (R106). The
FAULT_SET of R137 comes after both (the model's choice, log 47). -/
def stuckLatch (code : Nat) (s : State) : Eff :=
  if s.brc.stuck then (s, [])
  else
    (s.onBrc fun b => { b with stuck := true },
     [.stopEvent .brewerStuck, .post .fault (s.cupRun.map CupRun.order) Reason.brewerStuck.code code 0, .oruFaultSet])

/-- The end switches change (R106). With no move in hand, as in B_EJECT while it waits for the drawer, they update the position alone:
a brewer that comes to TOP so drops its puck at the next change of DRAWER_IN (the model's choice, log 68). -/
def switchChange (top bottom : Bool) (s : State) : Eff :=
  let s1 := s.onPins fun p => { p with brTop := top, brBot := bottom }
  if !s.working then (s1, [])
  else
    let s2 := s1.onBrc fun b => { b with position := s1.positionNow }
    if top && bottom then stuckLatch 2 s2
    else match s.brc.move with
      | some m => if (m.up && top) || (!m.up && bottom) then (moveOver s2, [.brcArrived m.up]) else (s2, [])
      | none => (s2, [])

/-- The move deadline is reached (R106). -/
def moveTimeout (s : State) : Eff := if s.brc.move.isSome then stuckLatch 1 s else (s, [])

/-! ### Pucks and the end of a run (R114, R116) -/

/-- A puck is counted; at the limit DRAWER_FULL is posted (R116). -/
def countPuck (s : State) : State :=
  let n := s.brc.pucks + 1
  let s1 := s.onBrc fun b => { b with pucks := n }
  if n = s.brc.drawerLimit then postNotice .drawerFull none n 0 0 s1 else s1

/-- The outcome reported at the end of a run (R112, R116). -/
def runOutcome (r : CupRun) (puck : Puck) : OrderOutcome :=
  match r.abort with
  | some .cancelled => .cancelled
  | some reason => .failed reason
  | none =>
    if puck = .retained then .failed .drawerTimeout
    else if r.pending = some .short then .short
    else .delivered

/-- The report of the end of a cup run (R116). -/
def runEnd (r : CupRun) (puck : Puck) : RunEnd :=
  { order := r.order, outcome := runOutcome r puck, grind := r.grind.map fun g => (g.count, g.mode), extraction := r.extraction,
    puck := puck }

/-- A cup run ends: the puck is counted, the end reported to the ORU, the unit becomes IDLE (R114, R116). -/
def endCupRun (puck : Puck) (s : State) : Eff :=
  match s.cupRun with
  | none => (s, [])
  | some r =>
    let s1 := if puck = .none then s else countPuck s
    let s2 := if puck = .retained then s1.onBrc fun b => { b with retained := true } else s1
    (s2, [.oruRunEnd (runEnd r puck), .brcUnitIdle])

/-- The unit becomes IDLE: no run, no step, phase IDLE, the heat wish returns, an offer is made (R104, R105, R116). -/
def brcUnitIdle (s : State) : Eff :=
  (phaseSet .idle (s.onBrc fun b => { b with unit := .idle, run := none, step := none, recoveryUp := false }),
   [.brcHeat, .brcOffer])

/-- The offer of an available unit (R105). -/
def brcOffer (s : State) : Eff :=
  if !s.unitAvailable then (s, [])
  else
    let cup := s.brc.cupWaiting && !s.clc.rinseRequired
    let step := s.brc.stepWaiting
    if cup && (!step || !s.inStretch) then (s, [.oruOffer])
    else if step then (s, [.clcOffer])
    else (s, [])

/-! ### The cup run (R107 to R112) -/

/-- The run's recipe. -/
def State.runRecipe (s : State) (r : CupRun) : Recipe := s.recipe r.recipe

/-- The state of the run moves on, its deadline dropped or set. -/
def runState (st : RunState) (deadline : Option Nat) (s : State) : State :=
  setRun (fun r => { r with state := st, deadline := deadline, waiting := false }) s

/-- A state of the cup run is entered: its phase is set and what the table of R107 names is started (R55, R107, R109 to R112). -/
def brcEnter (st : RunState) (s : State) : Eff :=
  match s.cupRun with
  | none => (s, [])
  | some r =>
    let c := s.conf
    let now := s.timeBase
    match st with
    | .home => (phaseSet .idle (runState .home none s), [.brcHeat, .brcMove true])
    | .grind => (phaseSet .idle (runState .grind none s), [.oruGrindReady])
    | .close => (phaseSet .idle (runState .close none s), [.brcHeat, .brcMove false])
    | .prewet =>
      if (s.runRecipe r).prewet = 0 then (s, [.brcEnter .soak])
      else
        (phaseSet .prewet (runState .prewet (some (now + c.extractionLimitS * 1000)) s),
         [.cnuArm .flow .brc (s.flowTarget (s.runRecipe r).prewet)])
    | .soak =>
      if (s.runRecipe r).soak = 0 then (s, [.brcEnter .heatWait])
      else (phaseSet .soak (runState .soak (some (now + (s.runRecipe r).soak * 1000)) s), [])
    | .heatWait =>
      if s.brc.regulator = .ready then (runState .heatWait none s, [.brcEnter .extract])
      else (runState .heatWait (some (now + c.heatWaitS * 1000)) s, [])
    | .extract =>
      (phaseSet .extract (runState .extract (some (now + c.extractionLimitS * 1000)) s),
       [.cnuArm .flow .brc (s.flowTarget (recipeVolume (s.runRecipe r) r.size))])
    | .drain => (phaseSet .drain (runState .drain (some (now + c.drainTimeS * 1000)) s), [.brcHeat])
    | .eject => (phaseSet .eject (runState .eject none s), [.brcHeat, .brcEject])

/-- B_EJECT acts on the drawer while the brewer is short of TOP (R112). -/
def brcEject (s : State) : Eff :=
  match s.cupRun with
  | none => (s, [])
  | some r =>
    if r.state ≠ .eject then (s, [])
    else if s.brc.position = .top then (s, [.brcArrived true])
    else if s.pins.drawerIn then
      (setRun (fun r => { r with waiting := false }) s, if s.brc.move.isSome then [] else [.brcMove true])
    else
      let s1 := moveOver s
      match r.deadline with
      | none => (setRun (fun r => { r with waiting := true, deadline := some (s.timeBase + s.conf.ejectWaitS * 1000) }) s1, [])
      | some d =>
        if d ≤ s.timeBase then endCupRun .retained s1 else (setRun (fun r => { r with waiting := true }) s1, [])

/-- A move has arrived: the work that asked for it goes on (R104, R107, R112 to R114). -/
def brcArrived (up : Bool) (s : State) : Eff :=
  match s.brc.unit with
  | .cup =>
    match s.brc.run with
    | none => (s, [])
    | some r =>
      match r.state, up with
      | .home, true => (s, [.brcEnter .grind])
      | .close, false => (s, [.brcEnter (if r.cleanOut then .eject else .prewet)])
      | .eject, true => endCupRun .dropped (setRun (fun r => { r with grounds := false }) s)
      | _, _ => (s, [])
  | .step =>
    match s.brc.step with
    | none => (s, [])
    | some k =>
      match k.kind, up with
      | .motion _, false => (s, [.brcMove true])
      | .motion _, true =>
        let left := k.strokesLeft - 1
        (s.onBrc fun b => { b with step := some { k with strokesLeft := left } },
         if left = 0 then [.clcStrokesDone] else [.brcMove false])
      | .flush _, false => (s, [.clcPositioned])
      | .csoak _, false => (s, [.clcPositioned])
      | .drain _, false => (s, [.clcPositioned])
      | _, _ => (s, [])
  | .recovery =>
    if up then
      if s.brc.recoveryUp then (s.onBrc fun b => { b with retained := false }, [.brcUnitIdle]) else (s, [])
    else (phaseSet .eject (s.onBrc fun b => { b with recoveryUp := true }), [.brcMove true])
  | .idle => (s, [])

/-- RUN_ENDED of the flow counter reaches the cup run (R109, R111). -/
def brcRunEnded (cap : Capture) (s : State) : Eff :=
  match s.cupRun with
  | none => (s, [])
  | some r =>
    match r.state, cap.cause with
    | .prewet, .stop => (s, [])
    | .prewet, _ => (s, [.brcEnter .soak])
    | .extract, .target | .extract, .time =>
      (setRun (fun r => { r with pending := some .delivered, extraction := some (cap.count, cap.mode) }) s, [.brcEnter .drain])
    | .extract, _ => (setRun (fun r => { r with extraction := some (cap.count, cap.mode) }) s, [])
    | _, _ => (s, [])

/-- The extraction limit passes in B_PREWET (R109). -/
def prewetLimit (s : State) : Eff := disarm .flow s

/-- The extraction deadline is reached (R111). -/
def extractionEnd (s : State) : Eff :=
  let e := disarm .flow (setRun (fun r => { r with pending := some .short }) s)
  (e.1, e.2 ++ [.brcEnter .drain])

/-! ### Aborts (R108, R113, R115) -/

/-- The abort reason is recorded unless one is held (R113). -/
def recordAbort (reason : Reason) (s : State) : State := setRun (fun r => { r with abort := some (r.abort.getD reason) }) s

/-- An abort that comes from the BRC itself asks for a stop event (R113). -/
def brcAbort (reason : Reason) (s : State) : Eff := (recordAbort reason s, [.stopEvent reason])

/-- The grind of a run in B_GRIND is over: an abort held or brought by it is carried out, after the reporting of a stop event in
hand (R108, R113). -/
def grindOver (s : State) : Eff :=
  match s.cupRun with
  | none => (s, [])
  | some r =>
    match r.abort with
    | none => (s, [.brcEnter .close])
    | some reason => (s, match r.stop with
        | .notMade => [.stopEvent reason]
        | .reporting => []
        | .made => [.brcProceed])

/-- What a grind report leaves in the run record (R108). -/
def reportedRun (r : GrindReport) (c : CupRun) : CupRun :=
  { c with
    grind := some r, grindOver := true, grounds := (match r.outcome with | .done => true | _ => decide (0 < r.count)),
    abort := match r.outcome with
      | .done => c.abort
      | .failed reason => some (c.abort.getD reason)
      | .cancelled => some (c.abort.getD .cancelled) }

/-- The grind report reaches the cup run (R108). -/
def brcGrindReport (r : GrindReport) (s : State) : Eff :=
  if s.cupRun.any (fun c => c.state == .grind && c.order == r.order) then grindOver (setRun (reportedRun r) s) else (s, [])

/-- The GRIND request was refused (R108). -/
def brcGrindRefused (s : State) : Eff :=
  if s.cupRun.any (fun c => c.state == .grind) then
    grindOver (setRun (fun c => { c with grindOver := true, abort := some (c.abort.getD .grindRefused) }) s)
  else (s, [])

/-- The answer to CANCEL_GRIND reaches the BRC: whatever it is, the run waits for the grind report (R108, R115). -/
def brcGrindCancelAnswer (_ : GrindCancelAnswer) (s : State) : Eff := (s, [])

/-- A stop event reaches the BRC: the regulator state is reported once more, the move in hand is over, and the work in hand
ends or is aborted; a step whose move it ended reports MOVE_STOPPED (R62, R104, R106, R113, R114). A cup run proceeds when the
reporting is over. -/
def brcStop (cause : Reason) (s : State) : Eff :=
  let s1 := reportRegulator (moveOver s)
  match s.brc.unit with
  | .cup =>
    (setRun (fun r => { r with abort := some (r.abort.getD cause), stop := .reporting, deadline := none, waiting := false }) s1,
     [.brcHeat])
  | .step => (strokesOver s1, s.moveStopped)
  | .recovery => (s1, [.brcUnitIdle])
  | .idle => (s1, [])

/-- The stop event has been reported to every block: a run that it aborts proceeds, from B_GRIND once the grind is over (R108, R113). -/
def brcStopOver (s : State) : Eff :=
  match s.cupRun with
  | none => (s, [])
  | some r =>
    if r.stop ≠ .reporting then (s, [])
    else (setRun (fun r => { r with stop := .made }) s, if r.state = .grind ∧ r.grindOver = false then [] else [.brcProceed])

/-- An aborted run proceeds by its grounds mark and the state of the brewer (R113). -/
def brcProceed (s : State) : Eff :=
  match s.cupRun with
  | none => (s, [])
  | some r =>
    if !r.grounds then endCupRun .none s
    else if s.dcu.basePerm && !s.brc.stuck then
      (setRun (fun r => { r with cleanOut := true }) s, [.brcEnter (if s.brc.position = .bottom then .eject else .close)])
    else endCupRun .retained s

/-- LINE_LOST reaches the BRC (R48, R108, R113, R114). To a grind that waits for power no CANCEL_GRIND goes: the run waits for its
report (the model's choice, log 45). -/
def brcLineLost (s : State) : Eff :=
  match s.brc.unit with
  | .cup =>
    if s.cupRun.any (fun r => r.state == .grind && !r.grindOver) then (recordAbort .lineLost s, [.brcHeat])
    else brcAbort .lineLost s
  | .recovery => (moveOver s, [.brcUnitIdle])
  | .idle | .step => (s, [])

/-- NO_BASE: the move in hand is over (R60, R106, R114). -/
def brcNoBase (s : State) : Eff := (moveOver s, if s.brc.unit = .recovery then [.brcUnitIdle] else [])

/-- The answers to CANCEL_RUN (R115). -/
inductive CancelAnswer where
  | ok
  | noRun
  | tooLate
  | ending
deriving DecidableEq, Repr

def State.cancelRunAnswer (s : State) (number : Nat) : CancelAnswer :=
  match s.cupRun with
  | none => .noRun
  | some r =>
    if r.order ≠ number then .noRun
    else if r.abort.isSome then .ending
    else match r.state with
      | .home | .grind | .close | .prewet | .soak | .heatWait => .ok
      | .extract | .drain | .eject => .tooLate

/-- The effect of CANCEL_RUN (R115). -/
def cancelRun (number : Nat) (s : State) : Eff :=
  if s.cancelRunAnswer number ≠ .ok then (s, [])
  else if s.cupRun.any (fun r => r.state == .grind) then
    let e := cancelGrind number (recordAbort .cancelled s)
    (e.1, .brcHeat :: e.2)
  else brcAbort .cancelled s

/-! ### Requests for the unit (R103, R104) -/

/-- A refused request for the unit: the code, and the holder of a BUSY. -/
inductive UnitRefusal where
  | notServing
  | fault
  | rinseRequired
  | noSlot
  | busy (holder : UnitState)
  | noBase
deriving DecidableEq, Repr

/-- The last two tests, common to both requests (R103). -/
def State.unitTests (s : State) : Option UnitRefusal :=
  if s.brc.retained then some (.busy .recovery)
  else if s.brc.unit ≠ .idle then some (.busy s.brc.unit)
  else if !s.dcu.basePerm then some .noBase
  else none

/-- The tests of a CUP request (R103). -/
def State.cupTest (s : State) : Option UnitRefusal :=
  if s.plk.mode ≠ .serving then some .notServing
  else if s.anyFault then some .fault
  else if s.clc.rinseRequired then some .rinseRequired
  else s.unitTests

/-- The tests of a STEP request (R104). -/
def State.stepTest (s : State) : Option UnitRefusal :=
  if s.plk.mode ≠ .serving then some .notServing
  else if s.anyFault then some .fault
  else if !s.stu.confirmed.clean then some .noSlot
  else s.unitTests

/-- A refusal sets the waiting mark (R103, R104). One that sets none leaves a mark that stands (the model's choice, log 48). -/
def waits : UnitRefusal → Bool
  | .notServing | .fault | .noSlot => false
  | .rinseRequired | .busy _ | .noBase => true

/-- A granted CUP request: the run begins in B_HOME (R103, R107). -/
def grantCup (o : Order) (s : State) : Eff :=
  (s.onBrc fun b => { b with
    unit := .cup, cupWaiting := false,
    run := some { order := o.number, recipe := o.recipe, size := o.size, strength := o.strength, state := .home,
                  grounds := false, grind := none, grindOver := false, extraction := none, pending := none, abort := none,
                  cleanOut := false, stop := .notMade, waiting := false, deadline := none } },
   [.brcEnter .home])

/-- The strokes of a step kind. -/
def strokesOf : StepKind → Nat
  | .motion n => n
  | _ => 0

/-- A granted STEP request (R104). -/
def grantStep (k : StepKind) (s : State) : State :=
  s.onBrc fun b => { b with unit := .step, stepWaiting := false, step := some { kind := k, strokesLeft := strokesOf k } }

/-- The BRC serves a granted step (R104). -/
def brcServeStep (s : State) : Eff :=
  match s.unitStep with
  | some .heatWait => (s, [.brcHeat, .brcReadyCheck])
  | some (.flush _) | some (.csoak _) | some (.drain _) | some (.motion _) => (s, [.brcMove false])
  | some (.prompt _) | none => (s, [])

/-- READY is reported at once if the regulator is READY at the grant (R104). -/
def brcReadyCheck (s : State) : Eff :=
  if s.unitStep = some .heatWait ∧ s.brc.regulator = .ready then (s, [.clcReady]) else (s, [])

/-- STEP_END (R104). -/
def brcStepEnd (s : State) : Eff := if s.brc.unit = .step then brcUnitIdle s else (s, [])

/-! ### Drawer and recovery (R112, R114, R116) -/

/-- DRAWER_IN changes (R112, R114, R116). -/
def drawerChange (inPlace : Bool) (s : State) : Eff :=
  let s1 := s.onPins fun p => { p with drawerIn := inPlace }
  if !s.working then (s1, [])
  else
    let s2 := s1.onBrc fun b =>
      if inPlace && !b.drawerIn then
        { b with drawerIn := true, pucks := if b.retained then 1 else 0, drawerLimit := s.conf.drawerLimit }
      else { b with drawerIn := inPlace }
    match s.brc.unit with
    | .cup => (s2, [.brcEject])
    | .recovery => if inPlace then (s2, []) else (moveOver s2, [.brcUnitIdle])
    | .idle | .step => (s2, [])

/-- A recovery eject starts (R114). -/
def recoveryStart (s : State) : Eff :=
  (phaseSet .idle (s.onBrc fun b => { b with unit := .recovery, recoveryUp := false }), [.brcMove false])

/-! ### The boiler switches (R58, R117, R118) -/

/-- The overheat latch is set (R58, R118). The FAULT_SET of R137 comes after the stop event and the notice (the model's choice,
log 47). -/
def overheatLatch (s : State) : Eff :=
  let s1 := reportRegulator (s.onBrc fun b => { b with overheat := true, regulator := .tripped })
  (s1, [.stopEvent .overheat, .brcHeat, .post .fault none Reason.overheat.code 0 0, .oruFaultSet])

/-- BOIL_OVHT changes (R118). -/
def overheatChange (asserted : Bool) (s : State) : Eff :=
  let s1 := s.onPins fun p => { p with boilOvht := asserted }
  if !asserted || s.pins.boilOvht || !s.working || s.brc.overheat then (s1, []) else overheatLatch s1

/-- BOIL_COLD changes (R117). -/
def boilerChange (cold : Bool) (s : State) : Eff :=
  let s1 := s.onPins fun p => { p with boilCold := cold }
  if s.working then (s1, [.brcRegulator]) else (s1, [])

end Sys2Proof.Machine
end

