-- ==== Sys2Proof/Machine/Clean.lean ====
section
/-! DEFINITION. The Cleaning Controller: starting, stepping, suspending, completing and aborting a cycle (R173 to R190). -/

namespace Sys2Proof.Machine

/-! ### The cycle in hand -/

/-- The step kind of a cycle record. -/
def cycleStep (c : Cycle) : StepKind := stepAt c.kind c.step

/-- The cycle whose step runs: granted and not yet ended (R176, R180). -/
def State.runningStep (s : State) : Option Cycle :=
  if s.stepRunning then s.clc.cycle.filter (fun c => c.unitHeld) else none

/-- The kind of the step that runs. -/
def State.runningKind (s : State) : Option StepKind := s.runningStep.map cycleStep

def setCycle (f : Cycle → Cycle) (s : State) : State := s.onClc fun u => { u with cycle := u.cycle.map f }

/-- The kind of the cycle held in any state but CL_IDLE (R176, R187). -/
def State.heldKind (s : State) : Option CleanKind :=
  match s.clc.cycle with
  | some c => some c.kind
  | none => s.clc.resume.map Resume.kind

/-! ### Start and the wait for the slot (R177, R178) -/

/-- The cycle record that a start or a resume fills. -/
def State.startCycle (s : State) : Option Cycle :=
  match s.clc.resume with
  | some r => some { kind := r.kind, step := r.step, unitHeld := false, stretch := false, deadline := none, resuming := true }
  | none => s.nextKind.map fun k => { kind := k, step := 1, unitHeld := false, stretch := false, deadline := none, resuming := false }

/-- The start conditions hold in CL_IDLE or CL_SUSPENDED: the slot is wished for and the standby mark is cleared (R120, R177). -/
def clcStart (s : State) : Eff :=
  match s.startCycle with
  | none => (s, [])
  | some c =>
    let s1 := s.onClc fun u => { u with state := .waitSlot, cycle := some c }
    let e := clearStandby s1
    (e.1, .stuCleanWish true :: e.2)

/-- The wait for the slot is abandoned when a start condition fails (R178). -/
def clcSlotWait (s : State) : Eff :=
  if s.clc.state ≠ .waitSlot ∨ s.startConditions = true then (s, [])
  else
    (s.onClc fun u => { u with cycle := none, state := if u.resume.isSome then .suspended else .idle }, [.stuCleanWish false])

/-- GRANTED for the clean slot (R178). -/
def clcGranted (s : State) : Eff :=
  if s.clc.state = .waitSlot then (s.onClc fun u => { u with state := .run }, [.clcRequest]) else (s, [])

/-! ### Suspension (R185 to R188) -/

/-- The cycle goes into the resume record, and the state is CL_SUSPENDED (R185, steps 2 and 5). -/
def suspended (s : State) : State :=
  s.onClc fun u => { u with
    state := .suspended, cycle := none,
    resume := match u.cycle with
      | some c => some { kind := c.kind, step := c.step, time := s.timeBase }
      | none => u.resume }

/-- The cycle gives way at a boundary (R185). -/
def clcSuspend (s : State) : Eff :=
  (suspended s, (if s.runningStep.isSome then [.brcStepEnd] else []) ++ [.stuCleanWish false])

/-- The cup-pending indication is set while an interruptible step waits or an interruptible PROMPT holds the unit (R182, R185). -/
def clcCupPending (s : State) : Eff :=
  if !s.oru.cupPending || s.clc.rinseRequired then (s, [])
  else match s.clc.cycle with
    | none => (s, [])
    | some c =>
      if interruptible c && ((s.clc.state == .run && !c.unitHeld) || s.clc.state == .prompt) then clcSuspend s else (s, [])

/-- STEP_DOWN reaches the CLC (R186): a granted step is cut by a brew-unit stop, which ends its flush run and its move (R63, R104); a
waiting one is recorded. -/
def clcStepDown (s : State) : Eff :=
  if !s.stepRunning || s.inStretch then (s, [])
  else if s.runningStep.isSome then
    (strokesOver (moveOver (unitStop (suspended s))), [.cnuStop .flow] ++ s.moveStopped ++ [.brcStepEnd, .stuCleanWish false])
  else clcSuspend s

/-- The suspend limit passes: the cycle is dropped (R188). -/
def clcDrop (s : State) : Eff :=
  match s.clc.resume with
  | none => (s, [])
  | some r =>
    (s.onClc fun u => { u with state := .idle, cycle := none, resume := none },
     (if s.clc.state = .waitSlot then [.stuCleanWish false] else []) ++ [.post .cleanDone none 2 r.kind.code 0])

/-! ### Abort (R189) -/

/-- The codes for which an abort asks for a stop event itself (R189, step 1). -/
def asksStop : Reason → Bool
  | .lineLost | .heatTimeout | .promptTimeout | .noSlot | .notServing | .cancelled => true
  | _ => false

/-- An abort; `fromStop` tells that a stop event brought it (R189). -/
def clcAbort (code : Reason) (fromStop : Bool) (s : State) : Eff :=
  match s.heldKind with
  | none => (s, [])
  | some k =>
    let held := s.runningStep.isSome
    let s1 := s.onClc fun u => { u with
      state := .idle, cycle := none, resume := none,
      held := if code = .cancelled ∨ code = .promptTimeout then setKindMark u.held k true else u.held }
    let s2 := if s.clc.rinseRequired then setDue .rinse s1 else s1
    (s2, (if !fromStop && held && asksStop code then [.stopEvent code] else [])
          ++ (if held then [.brcStepEnd] else [])
          ++ (if s.clc.state = .suspended then [] else [.stuCleanWish false])
          ++ [.post .cleanDone none 3 k.code code.code])

/-- A stop event reaches the CLC (R189). -/
def clcStop (cause : Reason) (s : State) : Eff := if s.stepRunning then clcAbort cause true s else (s, [])

/-- LINE_LOST reaches the CLC (R189). -/
def clcLineLost (s : State) : Eff := if s.stepRunning then clcAbort .lineLost false s else (s, [])

/-! ### Requesting a step (R179, R182, R183) -/

/-- The stretch is entered at the grant of its first step (R183). -/
def enterStretch (s : State) : State :=
  match s.clc.cycle with
  | some c =>
    if firstOfStretch c.kind c.step then
      s.onClc fun u => { u with cycle := some { c with stretch := true }, rinseRequired := true }
    else s
  | none => s

/-- What the CLC does at the grant of a step: the unit-held mark, the end of a resume record, the stretch (R179, R183, R187). The
resume flag of R176 clears here (the model's choice, log 53). -/
def grantedStep (s : State) : State :=
  enterStretch ((setCycle (fun c => { c with unitHeld := true, resuming := false }) s).onClc fun u => { u with resume := none })

/-- The work of a granted step begins (R55, R180, R182). -/
def beginStep (k : StepKind) (s : State) : Eff :=
  match k with
  | .heatWait =>
    (phaseSet .idle (setCycle (fun c => { c with deadline := some (s.timeBase + s.conf.heatWaitS * 1000) }) s), [.brcServeStep])
  | .flush _ | .csoak _ | .drain _ => (s, [.brcServeStep])
  | .motion _ => (phaseSet .motion s, [.brcServeStep])
  | .prompt code =>
    let s1 := setCycle (fun c => { c with deadline := some (s.timeBase + s.conf.promptTimeoutMin * 60000) }) s
    let s2 := phaseSet .idle (s1.onClc fun u => { u with state := .prompt })
    (postNotice .cleanPrompt none code 0 0 s2, [.brcServeStep, .clcCupPending])

/-- A STEP request for the current step (R179). -/
def clcRequest (s : State) : Eff :=
  match s.clc.cycle with
  | none => (s, [])
  | some c =>
    if s.clc.state ≠ .run ∨ c.unitHeld = true then (s, [])
    else match s.stepTest with
      | none => beginStep (cycleStep c) (grantStep (cycleStep c) (grantedStep s))
      | some r =>
        let s1 := if waits r then s.onBrc fun b => { b with stepWaiting := true } else s
        match r with
        | .busy .cup => if interruptible c then clcSuspend s1 else (s1, [])
        | .busy _ | .noBase | .rinseRequired => (s1, [.clcCupPending])
        | .noSlot => clcAbort .noSlot false s1
        | .fault => clcAbort .fault false s1
        | .notServing => clcAbort .notServing false s1

/-- An offer of the unit to the CLC: the same request again, or withdrawal (R105, R179). -/
def clcOffer (s : State) : Eff :=
  if s.clc.state = .run ∧ s.clc.cycle.any (fun c => !c.unitHeld) = true then (s, [.clcRequest])
  else (s.onBrc fun b => { b with stepWaiting := false }, [.brcOffer])

/-! ### The work of a step and its end (R180, R181) -/

/-- POSITIONED from the BRC: the phase is set, the flow run armed or the step timer started (R180). -/
def clcPositioned (s : State) : Eff :=
  let until_ := fun (ms : Nat) (s : State) => setCycle (fun c => { c with deadline := some (s.timeBase + ms) }) s
  match s.runningKind with
  | some (.flush ml) =>
    (phaseSet .flush (until_ (s.conf.extractionLimitS * 1000) s), [.cnuArm .flow .clc (s.flowTarget ml)])
  | some (.csoak seconds) => (phaseSet .csoak (until_ (seconds * 1000) s), [])
  | some (.drain seconds) => (phaseSet .drain (until_ (seconds * 1000) s), [])
  | _ => (s, [])

/-- A step ends: STEP_END, then what follows it (R181). -/
def clcStepEnd (s : State) : Eff :=
  (setCycle (fun c => { c with unitHeld := false, deadline := none }) (s.onClc fun u => { u with state := .run }),
   [.brcStepEnd, .clcStepTail])

/-- READY from the BRC (R180). -/
def clcReady (s : State) : Eff := if s.runningKind = some .heatWait then clcStepEnd s else (s, [])

/-- A MOTION step runs. -/
def isMotion : Option StepKind → Bool
  | some (.motion _) => true
  | _ => false

/-- A FLUSH step runs. -/
def isFlush : Option StepKind → Bool
  | some (.flush _) => true
  | _ => false

/-- A CSOAK or DRAIN step runs. -/
def isTimed : Option StepKind → Bool
  | some (.csoak _) => true
  | some (.drain _) => true
  | _ => false

/-- STROKES_DONE from the BRC (R180). -/
def clcStrokesDone (s : State) : Eff := if isMotion s.runningKind then clcStepEnd s else (s, [])

/-- MOVE_STOPPED from the BRC changes nothing: the stop that caused it ends, aborts or suspends the step (R180, R186, R189). -/
def clcMoveStopped (s : State) : Eff := (s, [])

/-- RUN_ENDED of a flush run; one with cause STOP is handled with the stop (R180). -/
def clcRunEnded (cap : Capture) (s : State) : Eff :=
  if isFlush s.runningKind && cap.cause != .stop then clcStepEnd s else (s, [])

/-- The counters and due flags after the completion of a kind (R184, steps 1 to 3 and 6). -/
def completedClc (k : CleanKind) (u : Clc) : Clc :=
  let u1 := { u with cupsSinceRinse := 0, held := setKindMark u.held k false, state := .idle, cycle := none }
  match k with
  | .rinse => { u1 with due := { u1.due with rinse := false }, rinseRequired := false }
  | .clean => { u1 with cupsSinceClean := 0, due := { u1.due with rinse := false, clean := false } }
  | .descale => { u1 with waterSinceDescale := 0, residue := 0, due := { u1.due with rinse := false, descale := false } }

/-- A cycle completes (R184). -/
def clcComplete (k : CleanKind) (s : State) : Eff :=
  (s.onClc (completedClc k),
   (if s.clc.rinseRequired && k == .rinse then [.brcOffer] else []) ++ [.stuCleanWish false, .post .cleanDone none 1 k.code 0])

/-- What follows STEP_END: the end of a stretch, then completion or the next step (R181). -/
def clcStepTail (s : State) : Eff :=
  match s.clc.cycle with
  | none => (s, [])
  | some c =>
    if s.clc.state ≠ .run ∨ c.unitHeld = true then (s, [])
    else if c.step = (cycleSteps c.kind).length then clcComplete c.kind s
    else if lastOfStretch c.kind c.step then
      (s.onClc fun u => { u with cycle := some { c with step := c.step + 1, stretch := false }, rinseRequired := false },
       [.brcOffer, .clcRequest])
    else (setCycle (fun c => { c with step := c.step + 1 }) s, [.clcRequest])

end Sys2Proof.Machine
end

