-- ==== Sys2Proof/Machine/PurchaseLog.lean ====
section
/-! DEFINITION. The purchase log, the reserve and the refund list (R159, R160, R162 to R171). -/

namespace Sys2Proof.Machine

/-- The watermark test of an append (R168). -/
def watermarkTest (s : State) : State :=
  if s.plg.armed && s.conf.watermark ≤ s.plg.log.length then
    postNotice .logWatermark none s.plg.log.length 0 0 (s.onPlg fun p => { p with armed := false })
  else s

/-- An entry joins the tail with the next log sequence, the time and the present reset epoch (R164, steps 1 to 3). -/
def placeEntry (kind : LogKind) (badge : Badge) (amount : Nat) (order recipe : Option Nat) (mode : Option RunMode)
    (credit : Option Nat) (unlisted : Bool) (s : State) : State :=
  s.onPlg fun p => { p with
    log := p.log ++ [{ seq := p.nextSeq, kind := kind, badge := badge, amount := amount, order := order, recipe := recipe,
                       grindMode := mode, credit := credit, time := s.timeBase / 1000, epoch := p.epoch, unlisted := unlisted }],
    nextSeq := (p.nextSeq + 1) % 65536 }

/-- An append, taken whole (R164). -/
def appendEntry (kind : LogKind) (badge : Badge) (amount : Nat) (order recipe : Option Nat) (mode : Option RunMode)
    (credit : Option Nat) (unlisted : Bool) (s : State) : State :=
  watermarkTest (placeEntry kind badge amount order recipe mode credit unlisted s)

/-- The refund list cannot take a due: the sum would pass 65535, or the badge is new and the list is full (R159). -/
def dueUnlisted (refunds : List Refund) (badge : Badge) (amount : Nat) : Bool :=
  match refunds.find? (fun r => r.badge == badge) with
  | some r => 65535 < r.amount + amount
  | none => 16 ≤ refunds.length

/-- The refund list after a due (R159). A due of 0 cu for an unlisted badge is listed with amount 0 (the model's choice, log 51). -/
def addDue (refunds : List Refund) (badge : Badge) (amount time : Nat) : List Refund :=
  if dueUnlisted refunds badge amount then refunds
  else if refunds.any (fun r => r.badge == badge) then
    refunds.map fun r => if r.badge = badge then { r with amount := r.amount + amount } else r
  else refunds ++ [{ badge := badge, amount := amount, created := time, inUse := false }]

/-- A due is added to the refund list (R159). -/
def listDue (badge : Badge) (amount : Nat) (s : State) : State :=
  s.onPyu fun p => { p with refunds := addDue p.refunds badge amount s.timeBase }

/-- REFUND_DUE with its update of the refund list (R159, R163). -/
def appendRefundDue (badge : Badge) (amount order : Nat) (s : State) : State :=
  appendEntry .refundDue badge amount (some order) none none none (dueUnlisted s.pyu.refunds badge amount)
    (listDue badge amount s)

/-- The same at the handover of a warm reset, where no watermark test is made (R168, R170). -/
def handoverRefundDue (badge : Badge) (amount order : Nat) (s : State) : State :=
  placeEntry .refundDue badge amount (some order) none none none (dueUnlisted s.pyu.refunds badge amount)
    (listDue badge amount s)

/-- The PYU changes the reserve (R165). -/
def reserveUp (n : Nat) (s : State) : State := s.onPlg fun p => { p with reserve := p.reserve + n }
def reserveDown (n : Nat) (s : State) : State := s.onPlg fun p => { p with reserve := p.reserve - n }

/-- The log count plus the reserve plus 3 does not exceed 64 (R124, R144). -/
def State.logRoom (s : State) : Bool := s.plg.log.length + s.plg.reserve + 3 ≤ 64

/-- What the PYU does at the close of an order (R160). -/
def pyuClose (o : Order) (delivered : Bool) (s : State) : State :=
  match o.debitSeq with
  | none => s
  | some _ =>
    let badge := o.badge.getD 0#32
    let mode := match o.grind with
      | some (.report r) => some r.mode
      | _ => none
    let s1 := if delivered then appendEntry .delivered badge o.price (some o.number) (some o.recipe) mode none false s
      else appendRefundDue badge o.price o.number s
    reserveDown 1 s1

/-- The entries left by an acknowledgement of sequence `n`, if it is in the log (R167). -/
def ackLog (n : Nat) : List LogEntry → Option (List LogEntry)
  | [] => none
  | e :: rest => if e.seq = n then some rest else ackLog n rest

end Sys2Proof.Machine
end

