-- ==== Sys2Proof/Machine/Orders.lean ====
section
/-! DEFINITION. The Order Unit: admission, payment reports, the cup sequence, closing, cancel, faults (R122 to R137). -/

namespace Sys2Proof.Machine

def setOrder (n : Nat) (f : Order → Order) (s : State) : State :=
  s.onOru fun u => { u with queue := u.queue.map fun o => if o.number = n then f o else o }

/-- The cup-pending indication follows the queue; a change is told to the STU and the CLC (R126). -/
def oruCupPending (s : State) : Eff :=
  if s.oru.cupPending = s.cupPendingNow then (s, [])
  else (s.onOru fun u => { u with cupPending := s.cupPendingNow }, [.stuNeed, .clcCupPending])

/-! ### Closing (R134) -/

def outcomeCode : OrderOutcome → Nat
  | .delivered => 1
  | .short => 2
  | .failed _ => 3
  | .cancelled => 4
  | .expired => 5

def outcomeReason : OrderOutcome → Nat
  | .failed r => r.code
  | _ => 0

/-- A cup was made (R134, R172). -/
def isMade : OrderOutcome → Bool
  | .delivered | .short => true
  | _ => false

/-- An order leaves the queue with an outcome (R134). -/
def closeOrder (o : Order) (outcome : OrderOutcome) (s : State) : Eff :=
  let s1 := s.onOru fun u => { u with queue := u.queue.filter fun q => q.number != o.number }
  let s2 := pyuClose o (outcome == .delivered) s1
  let s3 := if isMade outcome then cupMade s2 else s2
  (s3, [.post .orderClosed (some o.number) (outcomeCode outcome) (outcomeReason outcome) 0, .oruCupPending]
        ++ (if o.state = .running then [.oruStart] else []))

/-! ### Choosing the cup to run (R129, R130) -/

/-- A start point: a CUP request for the oldest READY record, provided no record is RUNNING (R103, R129, R130).
A refusal NOT_SERVING or FAULT leaves a waiting mark that stands (the model's choice, log 48). -/
def oruStart (s : State) : Eff :=
  if s.hasRunning then (s, [])
  else match s.oldestReady with
    | none => (s, [])
    | some o =>
      match s.cupTest with
      | none => grantCup o (setOrder o.number (fun o => { o with state := .running }) s)
      | some r => (if waits r then s.onBrc fun b => { b with cupWaiting := true } else s, [])

/-- An offer of the unit to the ORU: a CUP request, or withdrawal (R105, R129). -/
def oruOffer (s : State) : Eff :=
  if s.hasRunning || s.oldestReady.isNone then (s.onBrc fun b => { b with cupWaiting := false }, [.brcOffer])
  else (s, [.oruStart])

/-! ### The cup sequence (R131 to R133) -/

def State.runningOrder (s : State) : Option Order := s.oru.queue.find? fun o => o.state == .running

/-- GRIND_READY: the GRIND request, and what becomes of a refusal (R131). -/
def oruGrindReady (s : State) : Eff :=
  match s.runningOrder with
  | none => (s, [.brcGrindRefused])
  | some o =>
    match s.grindTest with
    | none => grindAccept o.number o.recipe o.strength s
    | some r => (setOrder o.number (fun o => { o with grind := some (.refused r) }) s, [.brcGrindRefused])

/-- The grind report is recorded in the RUNNING record and passed on (R132). -/
def oruGrindReport (r : GrindReport) (s : State) : Eff :=
  (setOrder r.order (fun o => if o.state = .running then { o with grind := some (.report r) } else o) s, [.brcGrindReport r])

/-- The run's end closes the RUNNING record that it names with its outcome (R133). The order keeps nothing else of the report. -/
def oruRunEnd (r : RunEnd) (s : State) : Eff :=
  match s.runningOrder with
  | some o => if o.number = r.order then closeOrder o r.outcome s else (s, [])
  | none => (s, [])

/-- FAULT_SET closes every record that is not RUNNING, oldest first (R137). -/
def oruFaultSet (s : State) : Eff :=
  match s.oru.queue.find? (fun o => o.state != .running) with
  | some o =>
    let e := closeOrder o (.failed .outOfService) s
    (e.1, e.2 ++ [.oruFaultSet])
  | none => (s, [])

/-! ### Reports of the PYU (R127) -/

/-- The target order of a tap: the oldest WAIT_PAY record with no paying mark (R127, R144). -/
def State.payTarget (s : State) : Option Order := s.oru.queue.find? fun o => o.state == .waitPay && !o.paying

def oruPaying (n : Nat) (s : State) : State :=
  setOrder n (fun o => if o.state = .waitPay then { o with paying := true } else o) s

/-- PAID would be answered OK. -/
def State.payable (s : State) (n : Nat) : Bool := s.oru.queue.any fun o => o.number == n && o.state == .waitPay

/-- PAID for a record in WAIT_PAY (R127). -/
def oruPaid (n : Nat) (badge : Badge) (debit : Nat) (s : State) : State :=
  setOrder n (fun o => { o with badge := some badge, debitSeq := some debit, paying := false, windowExpired := false,
                                tapDeadline := none, state := .ready }) s

/-- PAYMENT_OVER (R127). -/
def oruPaymentOver (n : Nat) (s : State) : Eff :=
  let s1 := setOrder n (fun o => { o with paying := false }) s
  match s1.orderOf n with
  | some o => if o.windowExpired then closeOrder o .expired s1 else (s1, [])
  | none => (s1, [])

/-- The tap deadline of a record is reached (R128). -/
def tapExpiry (n : Nat) (s : State) : Eff :=
  let s1 := setOrder n (fun o => { o with tapDeadline := none, windowExpired := o.paying }) s
  match s1.orderOf n with
  | some o => if o.paying then (s1, []) else closeOrder o .expired s1
  | none => (s1, [])

/-! ### Admission (R123 to R125) -/

/-- The number after an order number (R123). -/
def numberAfter (n : Nat) : Nat := if 255 ≤ n then 1 else n + 1

/-- A number held by a record or by the payment in flight (R123). -/
def State.numberHeld (s : State) (n : Nat) : Bool :=
  s.oru.queue.any (fun o => o.number == n) || (s.pyu.payment.any fun p => p.order.any fun q => q.1 == n)

/-- The first number from `n` on that is not held. At most five numbers are held, so six looks suffice. -/
def freeNumber (held : Nat → Bool) : Nat → Nat → Nat
  | 0, n => n
  | k + 1, n => if held n then freeNumber held k (numberAfter n) else n

/-- The number given at an admission (R123). -/
def State.orderNumber (s : State) : Nat := freeNumber s.numberHeld 6 s.oru.nextNumber

/-- A recipe has a price in at least one size (R124). -/
def hasPrice (r : Recipe) : Bool := r.priceS.isSome || r.priceM.isSome || r.priceL.isSome

/-- The refusal of an ORDER request, if any (R124). -/
def State.orderTest (s : State) (recipe size strength : Nat) (free : Bool) : Option Result :=
  if s.plk.mode = .start ∨ s.stu.lineState = .joining then some .notReady
  else if s.plk.mode = .service then some .serviceMode
  else if s.anyFault then some .outOfService
  else if s.clc.rinseRequired && !s.inStretch then some .rinseRequired
  else if s.inStretch then some .cleaning
  else if 7 < recipe ∨ hasPrice (s.recipe recipe) = false then some .badRecipe
  else if (recipePrice (s.recipe recipe) size).isNone then some .badSize
  else if strength < 1 ∨ 5 < strength then some .badStrength
  else if free && !s.conf.freeVend then some .freeNotAllowed
  else if 4 ≤ s.oru.queue.length then some .queueFull
  else if s.brc.drawerLimit ≤ s.brc.pucks + s.oru.queue.length then some .drawerFull
  else if !free && !s.logRoom then some .logFull
  else none

/-- The record of an admitted order (R125). -/
def State.newOrder (s : State) (recipe size strength : Nat) (free : Bool) : Order :=
  { number := s.orderNumber, recipe := recipe, size := size, strength := strength, badgePay := !free,
    state := if free then .ready else .waitPay, admitted := s.timeBase,
    tapDeadline := if free then none else some (s.timeBase + s.conf.tapWindowS * 1000),
    windowExpired := false, paying := false, badge := none,
    price := if free then 0 else orZero (recipePrice (s.recipe recipe) size), debitSeq := none, grind := none }

/-- An order is admitted (R125). -/
def admitOrder (o : Order) (s : State) : Eff :=
  let s1 := s.onOru fun u => { u with queue := u.queue ++ [o], nextNumber := numberAfter o.number }
  let e := clearStandby s1
  (e.1, .stuStepDownEnd :: e.2 ++ [.oruCupPending] ++ (if o.state = .ready then [.oruStart] else []))

/-! ### Cancel (R135) -/

def cancelResult : CancelAnswer → Result
  | .ok => .accepted
  | .noRun => .tooLate
  | .tooLate => .tooLate
  | .ending => .ending

/-- A CANCEL request: its effect and its reply (R135). -/
def cancelOrder (n : Nat) (s : State) : Eff × Result :=
  match s.orderOf n with
  | none => ((s, []), .noSuchOrder)
  | some o =>
    if o.state = .running then (cancelRun n s, cancelResult (s.cancelRunAnswer n))
    else (closeOrder o .cancelled s, .ok)

end Sys2Proof.Machine
end

