-- ==== Sys2Proof/Machine/Payment.lean ====
section
/-! DEFINITION. The Payment Unit: taps, the badge hold, the write, the verify by re-tap, the reader link (R140 to R160). -/

namespace Sys2Proof.Machine

def setPayment (f : Payment → Payment) (s : State) : State := s.onPyu fun u => { u with payment := u.payment.map f }

/-- The order number of a payment. -/
def payOrder (p : Payment) : Option Nat := p.order.map Prod.fst

/-! ### Records to the reader (R142) -/

def isWrite : ReaderOut → Bool
  | .write _ _ _ => true
  | .signal _ => false

/-- A SIGNAL is queued, or discarded when three SIGNALs are queued (R142). -/
def sendSignal (accept : Bool) (s : State) : State :=
  if 3 ≤ (s.pyu.sendQueue.filter fun r => !isWrite r).length then s
  else s.onPyu fun u => { u with sendQueue := u.sendQueue ++ [.signal accept] }

/-- A WRITE is queued in the place kept for one (R142); an unsent WRITE makes room for it (log 19). -/
def sendWrite (p : Payment) (s : State) : State :=
  s.onPyu fun u => { u with sendQueue := (u.sendQueue.filter fun r => !isWrite r) ++ [.write p.badge p.expectedSeq p.newBalance] }

/-- The time in ms of 400 ms after the end of a record of ten characters that begins now (R142; log 27). -/
def State.replyDeadline (s : State) : Nat := (s.units + 3000 + 575) / 576 + 400

/-- The record at the head of the send queue begins (R142). It leaves the queue as it begins, so the limit of three SIGNAL records no
longer counts it (the model's choice, log 50). -/
def readerSend (s : State) : State :=
  match s.pyu.sendQueue with
  | [] => s
  | r :: rest =>
    let bytes := readerOutBytes r
    let s1 := s.onPyu fun u => { u with sendQueue := rest, lastRecord := bytes, sendFreeAt := s.units + bytes.length * 300 + 900 }
    if isWrite r && s.pyu.payment.any (fun p => p.state == .writing) then
      setPayment (fun p => { p with deadline := some s.replyDeadline }) s1
    else s1

/-! ### Ends unpaid (R148) -/

def PayCode.code : PayCode → Nat
  | .badgeBusy => 1
  | .lineBusy => 5
  | .removed => 6
  | .rejected => 7
  | .holdLost => 8
  | .mismatch => 9
  | .unresolved => 10

/-- The codes that send no SIGNAL (R148). -/
def silent : PayCode → Bool
  | .removed | .unresolved => true
  | _ => false

/-- No refund entry is in use (R148, R159). -/
def freeRefunds (s : State) : State := s.onPyu fun u => { u with refunds := u.refunds.map fun r => { r with inUse := false } }

/-- The payment ends unpaid with a code (R148). -/
def endUnpaid (code : PayCode) (s : State) : Eff :=
  match s.pyu.payment with
  | none => (s, [])
  | some p =>
    let s1 := if silent code then s else sendSignal false s
    let s2 := postNotice .payDenied (payOrder p) code.code 0 0 s1
    let s3 := if p.taken then offerFrame (.holdFree p.badge) s2 else s2
    let s4 := (reserveDown 3 (freeRefunds s3)).onPyu fun u => { u with payment := none }
    match p.order with
    | some q => oruPaymentOver q.1 s4
    | none => (s4, [])

/-! ### The tap (R144, R145) -/

/-- A tap that fails: SIGNAL DENY and PAY_DENIED with a code, which 0 leaves out (R144). -/
def denyTap (order : Option Nat) (code : Nat) (s : State) : State :=
  let s1 := sendSignal false s
  if code = 0 then s1 else postNotice .payDenied order code 0 0 s1

/-- The payment record of a tap (R143, R145). A listed refund of 0 cu (log 51) is used as any other, so that an UNRESOLVED can hold a
credit that is present and 0 (the model's choice, log 61). -/
def State.newPayment (s : State) (badge : Badge) (balance cardSeq : Nat) (target : Option Order) (refund : Option Nat)
    (deferred : Bool) : Payment :=
  { state := .hold, tag := (s.pyu.tag + 1) % 256, badge := badge,
    order := target.map fun o => (o.number, o.price), recipe := target.map Order.recipe,
    refundUsed := refund, deferred := deferred, oldBalance := balance, expectedSeq := cardSeq,
    newBalance := balance + orZero refund - orZero (target.map Order.price),
    hold := .queued, holdSeq := none, taken := false, lastTake := 0, refreshBase := 0, deferredSettle := false,
    joinRefresh := false, lapsed := false, deadline := some (s.timeBase + s.conf.holdLeaseS * 1000) }

/-- The badge's refund entry is marked in-use, if a refund is used (R145). -/
def useRefund (badge : Badge) (used : Bool) (s : State) : State :=
  s.onPyu fun u => { u with refunds := u.refunds.map fun r => if r.badge = badge ∧ used = true then { r with inUse := true } else r }

/-- A tap that passes starts a payment, or is denied LINE_BUSY where the LAU refuses the TAKE (R145). -/
def startPayment (p : Payment) (s : State) : State :=
  if s.queueFull then denyTap (payOrder p) 5 s
  else
    let s1 := (offerFrame (.holdTake p.badge p.tag) s).onPyu fun u => { u with tag := p.tag, payment := some p, lastNewSeq := 0 }
    let s2 := reserveUp 3 (useRefund p.badge p.refundUsed.isSome s1)
    match p.order with
    | some q => oruPaying q.1 s2
    | none => s2

/-- The refund amount listed for a badge (R144). -/
def State.refundOf (s : State) (badge : Badge) : Option Nat := (s.pyu.refunds.find? fun r => r.badge == badge).map Refund.amount

/-- A PRESENT in P_IDLE: the tests of a tap (R144). -/
def tap (badge : Badge) (balance cardSeq : Nat) (s : State) : State :=
  let target := s.payTarget
  let refund := s.refundOf badge
  let order := target.map Order.number
  let price := orZero (target.map Order.price)
  let sum := balance + orZero refund
  if target.isNone && refund.isNone then denyTap none 0 s
  else if s.peerHolds badge 0 then denyTap order 1 s
  else if !s.logRoom then denyTap order 2 s
  else if target.isSome && decide (sum < price) then denyTap order 3 s
  else if sum - price ≤ 65535 then startPayment (s.newPayment badge balance cardSeq target refund false) s
  else if target.isNone then denyTap order 4 s
  else if balance < price then denyTap order 3 s
  else startPayment (s.newPayment badge balance cardSeq target none true) s

/-! ### The hold (R149 to R152) -/

/-- A refresh or a fresh TAKE of the payment is offered (R149, R151). -/
def offerTake (p : Payment) (s : State) : State := offerFrame (.holdTake p.badge p.tag) s

/-- A refresh is offered unless a TAKE of this payment is queued (R151). -/
def offerRefresh (p : Payment) (s : State) : State := if s.takeQueued p.tag then s else offerTake p s

/-- A guard end reaches the PYU (R149). The join-refresh mark clears at the settlement and not before (the model's choice, log 49). -/
def pyuGuardEnd (s : State) : Eff :=
  match s.pyu.payment with
  | none => (s, [])
  | some p =>
    if p.hold ≠ .guarded then (s, [])
    else if s.stu.stale then (setPayment (fun p => { p with deferredSettle := true }) s, [])
    else
      let s1 := setPayment (fun p => { p with hold := .settled, joinRefresh := false, refreshBase := p.lastTake }) s
      (if p.joinRefresh then offerRefresh p s1 else s1, [.pyuTryWrite])

/-- The stale mark has cleared: a hold whose settlement was deferred is offered again (R149; log 25). -/
def pyuStaleCleared (s : State) : State :=
  match s.pyu.payment with
  | none => s
  | some p =>
    if p.hold = .guarded ∧ p.deferredSettle = true then
      offerTake p (setPayment (fun p => { p with hold := .queued, deferredSettle := false }) s)
    else s

/-- A DISPUTE that names the own station reaches the PYU (R150). -/
def pyuDispute (seq : Nat) (s : State) : Eff :=
  if s.pyu.payment.any (fun p => p.hold == .guarded && p.holdSeq == some seq) then endUnpaid .badgeBusy s else (s, [])

/-- A JOIN was heard (R151). -/
def pyuJoin (s : State) : State :=
  match s.pyu.payment with
  | none => s
  | some p => if p.hold = .settled then offerRefresh p s else setPayment (fun p => { p with joinRefresh := true }) s

/-- A HOLD TAKE of the payment was posted (R147). -/
def takenPayment (seq now : Nat) (p : Payment) : Payment :=
  match p.hold with
  | .queued => { p with holdSeq := some seq, taken := true, lastTake := now, refreshBase := now, hold := .guarded }
  | .settled => { p with holdSeq := some seq, lastTake := now, refreshBase := now }
  | .guarded => p

def pyuTakePosted (tag seq : Nat) (s : State) : State :=
  setPayment (fun p => if p.tag = tag then takenPayment seq s.timeBase p else p) s

/-- A HOLD TAKE was given up (R147). -/
def pyuTakeGivenUp (tag : Nat) (s : State) : Eff :=
  if s.pyu.payment.any (fun p => p.tag == tag && p.hold == .queued) then endUnpaid .lineBusy s else (s, [])

/-- The hold wait deadline is reached (R150). -/
def holdWaitEnd (s : State) : Eff :=
  if s.pyu.payment.any (fun p => p.hold == .settled) then endUnpaid .badgeBusy s else endUnpaid .lineBusy s

/-- The refresh period in ms (R151). -/
def State.refreshPeriod (s : State) : Nat := max 1 (s.conf.holdLeaseS / 3) * 1000

/-- A refresh of the settled hold falls due (R151). -/
def refreshDue (s : State) : State :=
  match s.pyu.payment with
  | none => s
  | some p => offerRefresh p (setPayment (fun p => { p with refreshBase := s.timeBase }) s)

/-- The WRITE of the payment is sent, and P_WRITING entered; its reply deadline follows its sending (R142, R152, R157; log 27). -/
def enterWriting (p : Payment) (s : State) : State :=
  setPayment (fun p => { p with state := .writing, deadline := none }) (sendWrite p s)

/-- The PYU tries the write (R152). -/
def pyuTryWrite (s : State) : Eff :=
  match s.pyu.payment with
  | none => (s, [])
  | some p =>
    if p.state ≠ .hold ∨ p.hold ≠ .settled then (s, [])
    else if p.lapsed then endUnpaid .holdLost s
    else if s.peerHolds p.badge 0 then (s, [])
    else (enterWriting p s, [])

/-- A held badge was cleared in the share table (R25, R26, R152). -/
def pyuHoldCleared (badge : Badge) (s : State) : Eff :=
  if s.pyu.payment.any (fun p => p.badge == badge) && !s.peerHolds badge 0 then pyuTryWrite s else (s, [])

/-- A HOLD TAKE was delivered from station `n`: the PYU's dispute test (R153). -/
def pyuHoldTest (n : Nat) (badge : Badge) (seq : Nat) (s : State) : State :=
  if s.stu.stale then s
  else if s.pyu.payment.any (fun p => p.badge == badge && p.taken) || s.peerHolds badge n then
    offerFrame (.dispute n seq .badge) s
  else s

/-! ### The write and its outcomes (R154, R155) -/

/-- The refund list after a credit-back (R154, step 3): the entries at amount 0 leave it, one that was listed with amount 0 (log 51)
too, whatever its badge (the model's choice, log 60). -/
def creditedRefunds (badge : Badge) (used : Nat) (l : List Refund) : List Refund :=
  (l.map fun r => if r.badge = badge then { r with amount := r.amount - used, inUse := false } else r).filter
    fun r => r.amount != 0

/-- CREDIT_BACK and DEBIT of a completed write, and the lowered refund entry (R154, steps 1 to 3). -/
def completeAppends (p : Payment) (s : State) : State :=
  let s1 := match p.refundUsed with
    | some r => appendEntry .creditBack p.badge r none none none none false s
    | none => s
  let s2 := match p.order with
    | some q => appendEntry .debit p.badge q.2 (some q.1) p.recipe none none false s1
    | none => s1
  match p.refundUsed with
  | some r => s2.onPyu fun u => { u with refunds := creditedRefunds p.badge r u.refunds }
  | none => s2

/-- HOLD FREE, SIGNAL ACCEPT and ORDER_PAID, then P_IDLE (R154, steps 6 and 7). -/
def completeTail (p : Payment) (order : Option Nat) (code : Nat) (s : State) : State :=
  (postNotice .orderPaid order code 0 0 (sendSignal true (offerFrame (.holdFree p.badge) s))).onPyu
    fun u => { u with payment := none }

/-- The payment completes paid (R154). The ORU's answer to PAID is OK, coded 1, or CLOSED, coded 2; a payment without an
order is coded CREDIT, 3. -/
def completePayment (s : State) : Eff :=
  match s.pyu.payment with
  | none => (s, [])
  | some p =>
    let s1 := completeAppends p s
    match p.order with
    | none => (completeTail p none 3 (reserveDown 3 s1), [])
    | some q =>
      let debit := (s1.plg.nextSeq + 65535) % 65536
      if s.payable q.1 then
        let s2 := reserveUp 1 (reserveDown 3 (oruPaid q.1 p.badge debit s1))
        (completeTail p (some q.1) 1 s2, [.oruCupPending, .oruStart])
      else (completeTail p (some q.1) 2 (reserveDown 3 (appendRefundDue p.badge q.2 q.1 s1)), [])

/-- The write is uncertain: P_VERIFY with a re-tap window (R155). -/
def enterVerify (s : State) : State :=
  match s.pyu.payment with
  | none => s
  | some p =>
    postNotice .payRetap (payOrder p) 0 0 0
      (setPayment (fun p => { p with state := .verify, deadline := some (s.timeBase + s.conf.retapWindowS * 1000) }) s)

/-! ### Records from the reader (R146, R155, R157) -/

/-- The re-tap (R157). -/
def retap (p : Payment) (balance cardSeq : Nat) (s : State) : Eff :=
  if cardSeq = (p.expectedSeq + 1) % 65536 ∧ balance = p.newBalance then completePayment s
  else if cardSeq = p.expectedSeq ∧ balance = p.oldBalance then
    if p.lapsed then endUnpaid .holdLost s
    else if s.peerHolds p.badge 0 then endUnpaid .badgeBusy s
    else (enterWriting p s, [])
  else endUnpaid .mismatch (postNotice .payMismatch (payOrder p) 0 0 0 s)

/-- PRESENT (R144, R146, R157). -/
def readerPresent (badge : Badge) (balance cardSeq : Nat) (s : State) : Eff :=
  match s.pyu.payment with
  | none => (tap badge balance cardSeq s, [])
  | some p =>
    if p.badge ≠ badge then (sendSignal false s, [])
    else if p.state = .verify then retap p balance cardSeq s
    else (s, [])

/-- REMOVED (R146). -/
def readerRemoved (badge : Badge) (s : State) : Eff :=
  if s.pyu.payment.any (fun p => p.badge == badge && p.state == .hold) then endUnpaid .removed s else (s, [])

/-- A reply to a WRITE is awaited for this badge (R146). -/
def State.awaitsReply (s : State) (badge : Badge) : Bool :=
  s.pyu.payment.any fun p => p.badge == badge && (p.state == .writing || p.state == .verify)

/-- WRITTEN (R146, R154, R155). -/
def readerWritten (badge : Badge) (newSeq : Nat) (s : State) : Eff :=
  if s.awaitsReply badge then completePayment (s.onPyu fun u => { u with lastNewSeq := newSeq }) else (s, [])

/-- WRITE_FAILED (R146, R155). -/
def readerWriteFailed (badge : Badge) (rejected : Bool) (s : State) : Eff :=
  if !s.awaitsReply badge then (s, [])
  else if rejected then endUnpaid .rejected s
  else if s.pyu.payment.any (fun p => p.state == .writing) then (enterVerify s, [])
  else (s, [])

/-- The re-tap deadline is reached (R158). -/
def retapEnd (s : State) : Eff :=
  match s.pyu.payment with
  | none => (s, [])
  | some p =>
    endUnpaid .unresolved
      (appendEntry .unresolved p.badge (orZero (p.order.map Prod.snd)) (payOrder p) none none p.refundUsed false s)

/-! ### The reader receiver (R140)

At 19 200 bit/s a bit time is 30 units of 1/576000 s, a character 300 units and three character times 900. -/

/-- A character that begins at `start` meets the receiver: it is discarded, starts a record or joins the one in hand; a record
that its idle has ended is given out. In GAP the idle counts from the entry, or from the end of a character that ends after it. -/
def readerTake (start : Nat) (c : ReaderChar) (rx : ReaderRx) : ReaderRx × List (List (Byte × Bool)) :=
  match rx with
  | .off => (.off, [])
  | .gap since => (if since + 900 ≤ start ∧ 30 ≤ c.idle then .record [(c.data, c.stopLow)] else .gap (max since (start + 300)), [])
  | .record chars =>
    if 30 ≤ c.idle then (.record [(c.data, c.stopLow)], [chars]) else (.record (chars ++ [(c.data, c.stopLow)]), [])

/-- The records that end within a stretch of characters and at the three idle character times after it; `t` is the moment at which
the idle before the first of them began. -/
def readerGather : List ReaderChar → Nat → ReaderRx → List (List (Byte × Bool))
  | [], _, .record chars => [chars]
  | [], _, _ => []
  | c :: rest, t, rx =>
    let r := readerTake (t + 30 * c.idle) c rx
    r.2 ++ readerGather rest (t + 30 * c.idle + 300) r.1

/-- The length of a stretch of characters with the idle before it and the three character times after it. -/
def readerSpan (chars : List ReaderChar) : Nat := (chars.map fun c => 30 * c.idle + 300).foldl (· + ·) 900

/-- The records that a stretch of characters ending now has made. Moments are counted from the beginning of the stretch, the span
being added to those held. -/
def State.readerRecords (s : State) (chars : List ReaderChar) : List (List (Byte × Bool)) :=
  readerGather chars s.units (match s.pyu.reader with
    | .gap since => .gap (since + readerSpan chars)
    | rx => rx)

/-- The receiver after such a stretch: in GAP, the idle of RD_RX counting from the end of the last character, or from the entry to
GAP where that came later. -/
def readerHeard (s : State) : State :=
  s.onPyu fun u => { u with reader := match u.reader with
    | .off => .off
    | .gap since => .gap (max since (s.units - 900))
    | .record _ => .gap (s.units - 900) }

/-- A record that the reader sent whole, taken by the PYU (R140, R141). -/
def takeReaderRecord (r : ReaderRecord) (s : State) : Eff :=
  match r with
  | .present badge balance cardSeq => readerPresent badge balance cardSeq s
  | .removed badge => readerRemoved badge s
  | .written badge newSeq => readerWritten badge newSeq s
  | .writeFailed badge rejected => readerWriteFailed badge rejected s

end Sys2Proof.Machine
end

