-- ==== Sys2Proof/Machine/React.lean ====
section
/-! DEFINITION. One action: the reports between blocks are taken depth first until none is left, stop events one after another. -/

namespace Sys2Proof.Machine

/-- What each report does at the block it reaches, with the reports that block makes in turn. -/
def perform (a : Act) (s : State) : Eff :=
  match a with
  | .post kind order code d1 d2 => (postNotice kind order code d1 d2 s, [])
  | .lauAccess => lauAccess s
  | .claimReport => claimReport s
  | .stuLower => stuLower s
  | .stuRise p => stuRise p s
  | .stuRetry => (stuRetry s, [])
  | .stuHeatWish h => stuHeatWish h s
  | .stuGrindWish b => stuGrindWish b s
  | .stuCleanWish b => stuCleanWish b s
  | .stuStepDownEnd => stuStepDownEnd s
  | .stuNeed => (stuNeed s, [])
  | .cnuArm c o target => arm c o target s
  | .cnuArmCommit c o target => (armCommit c o target s, [])
  | .cnuStop c => stopRun c s
  | .runEnded .grc cap => grcRunEnded cap s
  | .runEnded .brc cap => brcRunEnded cap s
  | .runEnded .clc cap => clcRunEnded cap s
  | .rateUpdate c cap => (rateUpdate c cap s, [])
  | .stopEvent cause => stopEvent cause s
  | .stopOver => (s, [])
  | .grcStop => grcStop s
  | .brcStop cause => brcStop cause s
  | .brcStopOver => brcStopOver s
  | .clcStop cause => clcStop cause s
  | .grcGranted => grcGranted s
  | .grcWithdrawn => grcWithdrawn s
  | .grcStartGrinder => grcStartGrinder s
  | .brcEnter st => brcEnter st s
  | .brcMove up => brcMove up s
  | .brcArrived up => brcArrived up s
  | .brcEject => brcEject s
  | .brcProceed => brcProceed s
  | .brcUnitIdle => brcUnitIdle s
  | .brcOffer => brcOffer s
  | .brcHeat => brcHeat s
  | .brcRegulator => brcRegulator s
  | .brcReadyCheck => brcReadyCheck s
  | .brcNoBase => brcNoBase s
  | .brcLineLost => brcLineLost s
  | .brcGrindReport r => brcGrindReport r s
  | .brcGrindRefused => brcGrindRefused s
  | .brcGrindCancelAnswer a => brcGrindCancelAnswer a s
  | .brcServeStep => brcServeStep s
  | .brcStepEnd => brcStepEnd s
  | .brcStandby => (brcStandby s, [])
  | .oruStart => oruStart s
  | .oruOffer => oruOffer s
  | .oruGrindReady => oruGrindReady s
  | .oruGrindReport r => oruGrindReport r s
  | .oruRunEnd r => oruRunEnd r s
  | .oruFaultSet => oruFaultSet s
  | .oruCupPending => oruCupPending s
  | .clcOffer => clcOffer s
  | .clcGranted => clcGranted s
  | .clcLineLost => clcLineLost s
  | .clcStepDown => clcStepDown s
  | .clcReady => clcReady s
  | .clcPositioned => clcPositioned s
  | .clcStrokesDone => clcStrokesDone s
  | .clcMoveStopped => clcMoveStopped s
  | .clcCupPending => clcCupPending s
  | .clcRequest => clcRequest s
  | .clcStepTail => clcStepTail s
  | .clcSlotWait => clcSlotWait s
  | .pyuGuardEnd => pyuGuardEnd s
  | .pyuDispute seq => pyuDispute seq s
  | .pyuJoin => (pyuJoin s, [])
  | .pyuStaleCleared => (pyuStaleCleared s, [])
  | .pyuTakePosted tag seq => (pyuTakePosted tag seq s, [])
  | .pyuTakeGivenUp tag => pyuTakeGivenUp tag s
  | .pyuHoldCleared badge => pyuHoldCleared badge s
  | .pyuHoldTest n badge seq => (pyuHoldTest n badge seq s, [])
  | .pyuTryWrite => pyuTryWrite s
  | .pyuEndUnpaid code => endUnpaid code s

/-- A stop event put after the stop events that already wait at the head of a list. -/
def afterStops (cause : Reason) : List Act → List Act
  | .stopEvent c :: rest => .stopEvent c :: afterStops cause rest
  | rest => .stopEvent cause :: rest

/-- A stop event that comes while one is being reported waits until that one has been reported whole (R62). -/
def deferStop (cause : Reason) : List Act → List Act
  | [] => [.stopEvent cause]
  | .stopOver :: rest => .stopOver :: afterStops cause rest
  | a :: rest => a :: deferStop cause rest

/-- What is still to be taken after a report: its own reports come before the rest, but a stop event within the reporting of
another waits. -/
def nextActs (a : Act) (rest : List Act) (s : State) : List Act × State :=
  match a with
  | .stopEvent cause => if rest.contains .stopOver then (deferStop cause rest, s) else ((perform a s).2 ++ rest, (perform a s).1)
  | a => ((perform a s).2 ++ rest, (perform a s).1)

/-- The reports still to be taken are taken one after another, each with the reports it gives rise to before the next. The
first argument bounds their number (log 17). -/
def runActs : Nat → List Act → State → State
  | 0, _, s => s
  | _ + 1, [], s => s
  | n + 1, a :: rest, s => runActs n (nextActs a rest s).1 (nextActs a rest s).2

/-- The number of reports one action may take; no action of the spec comes near it (log 17). -/
def reportBound : Nat := 400

/-- The facts that other blocks read, brought up to date at the end of every action (log 32): the cup-pending indication, the
heat wish and regulator state, the wait for the clean slot, the need record, the standby timer. -/
def settleActs : List Act := [.oruCupPending, .brcHeat, .brcRegulator, .clcSlotWait, .stuNeed, .brcStandby]

/-- One action: an effect with its reports, then the facts derived from it; the blocks are inert before the load and in
HALTED (R22, R69, R121, R205, R206). -/
def react (e : Eff) : State :=
  if e.1.working then runActs reportBound (e.2 ++ settleActs) e.1 else runActs reportBound e.2 e.1

end Sys2Proof.Machine
end

