-- ==== Sys2Proof/Machine/Startup.lean ====
section
/-! DEFINITION. Resets, the configuration load and the changes of station mode (R198, R202 to R206, with the reset and load
tables of the blocks). -/

namespace Sys2Proof.Machine

/-! ### Power-on (R202) -/

/-- Power-on: every held item takes its power-on value; the input lines stay as they are, and the waiting commands with them. -/
def powerOn (resetAsserted : Bool) (s : State) : State :=
  { State.reset with
    pins := { s.pins with resetAsserted := resetAsserted },
    cfl := { Cfl.reset with reading := if resetAsserted then .none else .first },
    pending := s.pending }

/-! ### Warm reset (R203) -/

/-- The handover of the ORU: a REFUND_DUE for each debited order, oldest first (R138, R170). -/
def handoverOrders : List Order → State → State
  | [], s => s
  | o :: rest, s =>
    handoverOrders rest (if o.debitSeq.isSome then handoverRefundDue (o.badge.getD 0#32) o.price o.number s else s)

/-- The handover of the PYU: UNRESOLVED for a write that may have happened (R161, R170). -/
def handoverPayment (s : State) : State :=
  match s.pyu.payment with
  | some p =>
    if p.state = .writing ∨ p.state = .verify then
      placeEntry .unresolved p.badge (orZero (p.order.map Prod.snd)) (payOrder p) none none p.refundUsed false s
    else s
  | none => s

/-- The puck of a cup run that held its grounds is retained and counted (R121, R138). -/
def handoverPuck (s : State) : State :=
  if s.cupRun.any CupRun.grounds then s.onBrc fun b => { b with retained := true, pucks := b.pucks + 1 } else s

/-- The kept valves and the power-on values of everything else in the DCU (R64). -/
def warmDcu (u : Dcu) : Dcu :=
  { Dcu.reset with valveBrew := u.valveBrew, valveDrain := u.valveDrain, valveRinse := u.valveRinse }

/-- Each block takes its warm-reset values, with the kept items (R22, R86, R88, R121, R138, R161, R170, R191, R203). The
watermark armed flag of R168 stands with the log until the next load (the model's choice, log 52). -/
def warmBlocks (s : State) : State :=
  { s with
    lau := Lau.reset, stu := Stu.reset, dcu := warmDcu s.dcu,
    cnu := { Cnu.reset with grind := Counter.reset s.cnu.grind.rate, flow := Counter.reset s.cnu.flow.rate },
    grc := Grc.reset,
    brc := { Brc.reset with retained := s.brc.retained, pucks := s.brc.pucks, drawerLimit := s.brc.drawerLimit,
                            drawerIn := s.brc.drawerIn },
    oru := Oru.reset,
    pyu := { Pyu.reset with refunds := s.pyu.refunds },
    plg := { s.plg with reserve := 0, epoch := (s.plg.epoch + 1) % 256 },
    clc := { Clc.reset with cupsSinceRinse := s.clc.cupsSinceRinse, cupsSinceClean := s.clc.cupsSinceClean,
                            waterSinceDescale := s.clc.waterSinceDescale, residue := s.clc.residue,
                            rinseRequired := s.clc.rinseRequired },
    plk := Plk.reset }

/-- A warm reset, taken in the order of R203; a part with no configuration loaded keeps the valve levels it held (R64; log 13). -/
def warmReset (s : State) : State :=
  let s1 := if s.cfl.loaded.isSome then stopLevels s else s
  let s2 := freeRefunds (handoverPuck (handoverPayment (handoverOrders s1.oru.queue s1)))
  let s3 := warmBlocks s2
  { s3 with cfl := { s.cfl with loaded := none, reading := .none }, pins := { s.pins with resetAsserted := true } }

/-- RESET_N is asserted (R203); a level already asserted is no assertion. -/
def resetAssert (ramIntact : Bool) (s : State) : State :=
  if s.pins.resetAsserted then s
  else if s.cfl.retainMark && ramIntact then warmReset s
  else powerOn true s

/-- RESET_N is negated: the image read begins (R202, R203, R204). -/
def resetNegate (s : State) : State :=
  if s.pins.resetAsserted then
    { s with pins := { s.pins with resetAsserted := false }, cfl := { s.cfl with reading := .first } }
  else s

/-! ### Station modes (R198) -/

/-- The station mode changes and is reported; the entry to SERVING sets the phase IDLE and is a start point (R30, R55, R129, R198). -/
def enterMode (m : Mode) (s : State) : Eff :=
  let s1 := s.onPlk fun p => { p with mode := m }
  let s2 := if m = .serving then phaseSet .idle s1 else s1
  (s2, [.stuLower, .stuRise .base, .brcHeat] ++ (if m = .serving then [.oruStart] else []))

/-! ### The load (R204 to R206) -/

/-- The configuration is held; the LAU, the STU and the CNU take their values (R22, R27, R29, R41, R47, R84). -/
def loadLine (c : Cfg) (s : State) : State :=
  let cold := s.cfl.coldStart
  let rate := fun (initial : Nat) (k : Counter) => if cold then { k with rate := max 1 initial } else k
  let s1 := { s with
    cfl := { s.cfl with loaded := some c, result := .ok, reading := .none, coldStart := false },
    lau := { s.lau with receiver := .hunt, idleTimer := 0 },
    stu := { s.stu with effBudget := c.budget, effCleanLimit := c.cleanLimit, lastClaimPosted := s.timeBase,
                        lastRenewalDue := s.timeBase, lineState := .joining },
    cnu := { s.cnu with grind := rate c.initialGrindRate s.cnu.grind, flow := rate c.initialFlowRate s.cnu.flow } }
  staleMark true s1

/-- The BRC reads the switches and the drawer; at a power-on a brewer away from TOP retains a puck (R116, R121, R205). A drawer that a
reload finds IN after OUT resets no count and no limit (the model's choice, log 41). -/
def loadBrewer (cold : Bool) (s : State) : State :=
  let position := s.positionNow
  let retained := if cold then position != .top else s.brc.retained
  let pucks := if cold then flagCode retained else s.brc.pucks
  let limit := s.conf.drawerLimit
  let s1 := s.onBrc fun b => { b with
    position := position, retained := retained, pucks := pucks, drawerLimit := max limit pucks,
    drawerIn := s.pins.drawerIn }
  if limit < pucks then postNotice .drawerFull none pucks 0 0 s1 else s1

/-- The latches that the lines set at the load: brewer-stuck (log 26) and overheat (R118). -/
def loadLatches (s : State) : Eff :=
  let e := if s.pins.brTop && s.pins.brBot then stuckLatch 2 s else (s, [])
  if s.pins.boilOvht then
    let f := overheatLatch e.1
    (f.1, e.2 ++ f.2)
  else e

/-- The due flags set at a load (R173), in the order RINSE, CLEAN, DESCALE (the model's choice, log 62). -/
def loadDue (s : State) : State :=
  let c := s.conf
  let s1 := if c.rinseThreshold ≤ s.clc.cupsSinceRinse ∨ c.startRinse = true ∨ s.clc.rinseRequired = true then setDue .rinse s else s
  let s2 := if c.cleanThreshold ≤ s.clc.cupsSinceClean then setDue .clean s1 else s1
  if c.descaleThresholdL * 10 ≤ s.clc.waterSinceDescale then setDue .descale s2 else s2

/-- The watermark flag at a load (R168). -/
def loadWatermark (s : State) : State :=
  if s.plg.log.length < s.conf.watermark then s.onPlg fun p => { p with armed := true }
  else postNotice .logWatermark none s.plg.log.length 0 0 (s.onPlg fun p => { p with armed := false })

/-- A successful load, one action (R205). Its notices come in the order DRAWER_FULL, FAULT BREWER_STUCK, FAULT OVERHEAT,
CLEAN_DUE, LOG_WATERMARK (the model's choice, log 66). -/
def loadOk (c : Cfg) (s : State) : State :=
  let e := loadLatches (loadBrewer s.cfl.coldStart (loadLine c s))
  let s1 := loadWatermark (loadDue (runActs reportBound e.2 e.1))
  react (enterMode .serving (s1.onPyu fun u => { u with reader := .gap s.units }))

/-- A failed load: HALTED, with a stop event that takes the valves to CLOSED (R64, R206). -/
def loadFail (r : LoadResult) (s : State) : State :=
  (stopLevels { s with cfl := { s.cfl with result := r, reading := .none } }).onPlk fun p => { p with mode := .halted }

/-- One read of the image completes (R204). -/
def configRead (image : List Byte) (s : State) : State :=
  if s.pins.resetAsserted then s
  else match s.cfl.reading, imageTest image with
    | .none, _ => s
    | _, .ok => loadOk (cfgOf (imageAt image)) s
    | .first, _ => { s with cfl := { s.cfl with reading := .second } }
    | .second, r => loadFail r s

end Sys2Proof.Machine
end

