-- ==== Sys2Proof/Machine/Status.lean ====
section
/-! DEFINITION. The STATUS body: 531 bytes in the sections of 12_formats.md (R61, R87, R139, R197). -/

namespace Sys2Proof.Machine

/-! ### Codes of the enumerated fields -/

def Mode.code : Mode → Nat
  | .start => 1
  | .serving => 2
  | .service => 3
  | .halted => 4

def lineStateCode : LineState → Nat
  | .joining => 1
  | .online => 2
  | .isolated => 3

/-- The load result and its field number. -/
def loadResultCode : LoadResult → Nat × Nat
  | .ok => (0, 0)
  | .blank => (1, 0)
  | .check => (2, 0)
  | .version => (3, 0)
  | .range f => (4, f)

def counterRunCode : CounterRun → Nat
  | .idle => 0
  | .counting => 1
  | .timed => 2
  | .reached => 3

def runModeCode : RunMode → Nat
  | .counted => 0
  | .timed => 1

def ownerCode : Option Owner → Nat
  | none => 0
  | some .grc => 1
  | some .brc => 2
  | some .clc => 3

def endCauseCode : EndCause → Nat
  | .target => 1
  | .time => 2
  | .disarm => 3
  | .stop => 4

def monitorCode : Monitor → Nat
  | .off => 0
  | .spinUp _ => 1
  | .watch _ => 2

def grindStateCode : GrindState → Nat
  | .idle => 0
  | .waitPower => 1
  | .run => 2
  | .stop => 3

def unitStateCode : UnitState → Nat
  | .idle => 0
  | .cup => 1
  | .step => 2
  | .recovery => 3

def runStateCode : RunState → Nat
  | .home => 1
  | .grind => 2
  | .close => 3
  | .prewet => 4
  | .soak => 5
  | .heatWait => 6
  | .extract => 7
  | .drain => 8
  | .eject => 9

def positionCode : Position → Nat
  | .between => 0
  | .top => 1
  | .bottom => 2

def regulatorCode : Regulator → Nat
  | .off => 0
  | .heating => 1
  | .ready => 2
  | .tripped => 3

def orderStateCode : OrderState → Nat
  | .waitPay => 1
  | .ready => 2
  | .running => 3

def grindRefusalCode : GrindRefusal → Nat
  | .busy => 1
  | .fault => 2
  | .notTop => 3
  | .noOrder => 4

/-- Grind outcome, grind reason and grind count of an order record. -/
def grindResultCodes : Option GrindResult → Nat × Nat × Nat
  | none => (0, 0, 0)
  | some (.refused c) => (4, grindRefusalCode c, 0)
  | some (.report r) =>
    match r.outcome with
    | .done => (1, 0, r.count)
    | .failed reason => (2, reason.code, r.count)
    | .cancelled => (3, 0, r.count)

def payStateCode : PayState → Nat
  | .hold => 1
  | .writing => 2
  | .verify => 3

def holdStatusCode : HoldStatus → Nat
  | .queued => 1
  | .guarded => 2
  | .settled => 3

def cycleStateCode : CycleState → Nat
  | .idle => 0
  | .waitSlot => 1
  | .run => 2
  | .prompt => 3
  | .suspended => 4

def brewerCode : BrewerDrive → Nat
  | .stop => 0
  | .up => 1
  | .down => 2

/-! ### Sections -/

/-- A composition byte: bit 0 base, bit 1 grind, bit 2 clean slot, bits 5 and 4 the heat level. -/
def compositionByte (k : Composition) : List Byte :=
  [byteOf (flagCode k.base + 2 * flagCode k.grind + 4 * flagCode k.clean + 16 * heatCode k.heat)]

/-- A time remaining in ms, 0 when it has passed. -/
def State.remaining (s : State) (deadline : Option Nat) : Nat := orZero deadline - s.timeBase

def State.stationSection (s : State) : List Byte :=
  field1 s.plk.mode.code ++ field1 (lineStateCode s.stu.lineState) ++ field1 (loadResultCode s.cfl.result).1
    ++ field1 (loadResultCode s.cfl.result).2 ++ field4 s.timeBase

def State.claimSection (s : State) : List Byte :=
  let pending := match s.stu.pending with
    | some p => field1 (if p.guarded then 2 else 1) ++ compositionByte p.target ++ field1 p.seq
    | none => [0#8, 0#8, 0#8]
  compositionByte s.stu.posted ++ compositionByte s.stu.confirmed ++ pending ++ field1 (flagCode s.stu.stale)
    ++ field1 s.stu.effBudget ++ field1 s.stu.effCleanLimit

/-- One entry of the share table; flags: bit 0 LIVE, bits 2 and 1 heat level, bits 4 and 3 clean state, bit 5 badge held. -/
def shareEntryBytes (e : ShareEntry) : List Byte :=
  [byteOf (flagCode e.live + 2 * heatCode e.heat + 8 * cleanStateCode e.clean + 32 * flagCode e.held.isSome)]
    ++ field1 e.heatUnits ++ field1 e.otherUnits ++ field1 e.lastSeq
    ++ (match e.held with | some h => badgeBytes h.badge | none => [0#8, 0#8, 0#8, 0#8])

/-- The entry that STATUS reports: the own one stands for the own posted composition (R23). Its clean state is the one that R29 derives
for a CLAIM of that composition, and its remaining fields are those of log 16 (the model's choice, log 16). -/
def State.shownEntry (s : State) (n : Nat) : ShareEntry :=
  if n = s.conf.station then
    { ShareEntry.absent with
      live := Config.ownEntryLive, heat := s.stu.posted.heat, heatUnits := heatUnits s.conf s.stu.posted.heat,
      otherUnits := otherUnits s.conf s.stu.posted, clean := s.cleanStateOf s.stu.posted }
  else s.entry n

def State.shareSection (s : State) : List Byte := (List.range 15).flatMap fun k => shareEntryBytes (s.shownEntry (k + 1))

def State.channelSection (s : State) : List Byte :=
  let d := s.dcu
  let h := d.holds
  field1 d.heater ++ field1 d.pump ++ field1 (flagCode d.grinder) ++ field1 (brewerCode d.brewer)
    ++ field1 (flagCode d.valveBrew) ++ field1 (flagCode d.valveDrain) ++ field1 (flagCode d.valveRinse)
    ++ [Config.packedByte .holdMarks [flagCode h.heater, flagCode h.pump, flagCode h.grinder, flagCode h.brewer,
          flagCode h.valveBrew, flagCode h.valveDrain, flagCode h.valveRinse]]
    ++ field1 (phaseIndex d.phase) ++ field1 (heatCode d.granted)
    ++ [Config.packedByte .permissions [flagCode d.basePerm, flagCode d.grindPerm, flagCode d.serviceGrind]]
    ++ field1 s.drawn

/-- A capture: count, mode in bit 4 with the end cause in bits 3 to 0, duration. -/
def captureBytes (c : Capture) : List Byte :=
  field2 c.count ++ [byteOf (16 * runModeCode c.mode + endCauseCode c.cause)] ++ field2 c.duration

def State.counterBytes (s : State) (k : Counter) : List Byte :=
  field2 k.count ++ field1 (counterRunCode k.run) ++ field2 (orZero k.target) ++ field1 (runModeCode k.mode)
    ++ field1 (ownerCode k.owner) ++ field2 (s.remaining k.endTime) ++ captureBytes k.capture ++ captureBytes k.previous
    ++ field1 (monitorCode k.monitor) ++ field1 (flagCode k.latch) ++ field2 k.rate

def State.counterSection (s : State) : List Byte :=
  s.counterBytes s.cnu.grind ++ s.counterBytes s.cnu.flow ++ field1 s.cnu.skips

def State.grindSection (s : State) : List Byte :=
  field1 (grindStateCode s.grc.state) ++ field1 (orZero (s.grc.job.map GrindJob.order))
    ++ field2 (orZero (s.grc.job.map GrindJob.target)) ++ field1 s.grc.overloads
    ++ [Config.packedByte .faultLatches [flagCode s.grc.fault, flagCode s.brc.stuck, flagCode s.brc.overheat]]

/-- The time the standby timer has run, in seconds (R120); 0 while it is stopped (the model's choice, log 65). -/
def State.standbySeconds (s : State) : Nat :=
  match s.brc.standbySince with
  | some t => (s.timeBase - t) / 1000
  | none => 0

def State.brewSection (s : State) : List Byte :=
  field1 (unitStateCode s.brc.unit) ++ field1 (orZero (s.brc.run.map fun r => runStateCode r.state))
    ++ field1 (positionCode s.brc.position) ++ field1 (regulatorCode s.brc.regulator) ++ field1 s.brc.pucks
    ++ [Config.packedByte .brewingFlags [flagCode s.brc.drawerIn, flagCode s.brc.retained, flagCode s.brc.standby]]
    ++ field2 s.standbySeconds

def State.orderBytes (s : State) (o : Order) : List Byte :=
  let g := grindResultCodes o.grind
  field1 o.number ++ field1 o.recipe ++ field1 o.size ++ field1 o.strength
    ++ [Config.packedByte .orderModeStateMarks [if o.badgePay then 1 else 2, orderStateCode o.state, flagCode o.windowExpired,
          flagCode o.paying]]
    ++ field2 o.price ++ badgeBytes (o.badge.getD 0#32) ++ field2 (orZero o.debitSeq) ++ field4 o.admitted
    ++ field2 (s.remaining o.tapDeadline) ++ field1 g.1 ++ field1 g.2.1 ++ field2 g.2.2

/-- `count` records of `size` bytes: the ones given, then unused ones, which read 0. -/
def padRecords (count size : Nat) (records : List (List Byte)) : List Byte :=
  (records.take count).flatten ++ List.replicate ((count - (records.take count).length) * size) 0#8

def State.orderSection (s : State) : List Byte :=
  field1 s.oru.nextNumber ++ field1 (flagCode s.oru.cupPending) ++ field1 s.oru.queue.length
    ++ padRecords 4 23 (s.oru.queue.map s.orderBytes)

/-- The payment record; in P_IDLE its fields read 0, but for the tag, which the PYU keeps between payments (the model's choice,
log 59). It follows the layout of chapter 12, which has no byte for the last take time of R143 (the model's choice, log 69). -/
def State.paymentSection (s : State) : List Byte :=
  (match s.pyu.payment with
    | some p =>
      field1 (payStateCode p.state) ++ field1 p.tag ++ badgeBytes p.badge ++ field1 (orZero (payOrder p))
        ++ field2 (orZero (p.order.map Prod.snd)) ++ field2 (orZero p.refundUsed) ++ field2 p.oldBalance
        ++ field2 p.expectedSeq ++ field2 p.newBalance ++ field1 (holdStatusCode p.hold) ++ field1 (orZero p.holdSeq)
        ++ [Config.packedByte .paymentMarks [flagCode p.deferred, flagCode p.taken, flagCode p.deferredSettle,
              flagCode p.joinRefresh, flagCode p.lapsed]]
        ++ field2 (s.remaining p.deadline)
    | none => field1 0 ++ field1 s.pyu.tag ++ List.replicate 20 0#8)
  ++ field2 s.pyu.lastNewSeq

def refundBytes (r : Refund) : List Byte :=
  badgeBytes r.badge ++ field2 r.amount ++ field4 (r.created / 1000) ++ field1 (flagCode r.inUse)

def State.refundSection (s : State) : List Byte :=
  field1 s.pyu.refunds.length ++ padRecords 16 11 (s.pyu.refunds.map refundBytes)

def State.logSection (s : State) : List Byte :=
  field1 s.plg.log.length ++ field1 s.plg.reserve ++ field2 s.plg.nextSeq ++ field1 s.plg.epoch

/-- The codes of three marks. -/
def kindMarkCodes (m : KindMarks) : List Nat := [flagCode m.rinse, flagCode m.clean, flagCode m.descale]

def State.cleanSection (s : State) : List Byte :=
  let c := s.clc
  field2 c.cupsSinceRinse ++ field2 c.cupsSinceClean ++ field2 c.waterSinceDescale ++ field2 c.residue
    ++ [Config.packedByte .dueAndHeld (kindMarkCodes c.due ++ kindMarkCodes c.held)]
    ++ field1 (cycleStateCode c.state) ++ field1 (orZero (c.cycle.map fun y => y.kind.code))
    ++ field1 (orZero (c.cycle.map Cycle.step))
    ++ [Config.packedByte .cycleMarksAndLatch [flagCode (c.cycle.any Cycle.unitHeld), flagCode (c.cycle.any Cycle.stretch),
          flagCode (c.cycle.any Cycle.resuming), flagCode c.rinseRequired]]
    ++ field1 (orZero (c.resume.map fun r => r.kind.code)) ++ field1 (orZero (c.resume.map Resume.step))
    ++ field4 (orZero (c.resume.map fun r => r.time / 1000))

def State.noticeSection (s : State) : List Byte := field1 s.plk.notices.length ++ field1 (flagCode s.plk.noticesLost)

/-- The STATUS body (R197, 12_formats.md). -/
def State.statusBody (s : State) : List Byte :=
  s.stationSection ++ s.claimSection ++ s.shareSection ++ s.channelSection ++ s.counterSection ++ s.grindSection
    ++ s.brewSection ++ s.orderSection ++ s.paymentSection ++ s.refundSection ++ s.logSection ++ s.cleanSection
    ++ s.noticeSection

end Sys2Proof.Machine
end

