-- ==== Sys2Proof/Machine/Panel.lean ====
section
/-! DEFINITION. The Panel Link: admission, the reply slot and the requests it hands to the blocks (R65, R66, R166, R167, R190,
R192 to R201, R208). -/

namespace Sys2Proof.Machine

/-! ### Replies (R192, R193, R195) -/

/-- What a request comes to: the state it leaves, its result, the reply body, the notices the reply carries. -/
structure Answer where
  state : State
  result : Result
  body : List Byte
  notices : Nat

/-- A request that changes nothing. -/
def refuse (r : Result) (s : State) : Answer := { state := s, result := r, body := [], notices := 0 }

/-- A request answered OK with a state and a body. -/
def answerOk (s : State) (body : List Byte) : Answer := { state := s, result := .ok, body := body, notices := 0 }

/-- A discarded reply carried notices (R195). -/
def lostNotices : Option Reply → Bool
  | some r => decide (0 < r.notices)
  | none => false

/-- The reply takes the slot; an unread reply there is discarded, and the new one carries the reply-lost flag (R193, R195).
P_MISO has carried the idle value in each of the `clocked` bytes of the request (R192). -/
def placeReply (kind : Byte) (clocked : Nat) (a : Answer) : State :=
  a.state.onPlk fun p => { p with
    reply := some { kind := kind, result := a.result, lost := p.reply.isSome, body := a.body, notices := a.notices },
    noticesLost := p.noticesLost || lostNotices p.reply,
    miso := List.replicate clocked idleByte }

/-! ### Admission (R196) -/

/-- The rows of R196 that share one set of answers. -/
inductive Admission where
  | always
  | unlessHalted
  | cleaning
  | enter
  | service
deriving DecidableEq, Repr

/-- The reply that the PLK gives itself, if the station mode does not admit the request (R196). -/
def modeRefusal (a : Admission) (m : Mode) : Option Result :=
  match a, m with
  | .always, _ => none
  | _, .halted => some .configBad
  | .unlessHalted, _ => none
  | .cleaning, .start | .enter, .start | .service, .start => some .notReady
  | .cleaning, _ | .enter, _ => none
  | .service, .serving => some .notService
  | .service, .service => none

/-- A request that passed the first tests of R192 is admitted or refused by the station mode and answered; while RESET_N is
asserted transfers are ignored (R192, R196, R202). -/
def request (kind : Nat) (bodyLength : Nat) (a : Admission) (owner : State → Answer) (s : State) : State :=
  if s.pins.resetAsserted then s
  else match modeRefusal a s.plk.mode with
    | some r => placeReply (byteOf kind) (bodyLength + 3) (refuse r s)
    | none => placeReply (byteOf kind) (bodyLength + 3) (owner s)

/-! ### Requests the PLK owns (R195, R197, R199 to R201, R208) -/

def answerStatus (s : State) : Answer :=
  { state := s, result := if s.plk.mode = .halted then .configBad else .ok, body := s.statusBody, notices := 0 }

def answerNoticeRead (s : State) : Answer :=
  let taken := s.plk.notices.take 4
  let rest := s.plk.notices.drop 4
  { state := s.onPlk fun p => { p with notices := rest, noticesLost := false }, result := .ok, notices := taken.length,
    body := field1 taken.length ++ taken.flatMap noticeBytes ++ field1 rest.length ++ field1 (flagCode s.plk.noticesLost) }

/-- A BUSY refusal names the holder: CUP 1, STEP 2, RECOVERY 3. -/
def busyWith (holder : Nat) (s : State) : Answer := { state := s, result := .busy, body := field1 holder, notices := 0 }

def answerServiceEnter (s : State) : Answer :=
  if s.plk.mode = .service then answerOk s []
  else if s.hasRunning then busyWith 1 s
  else if s.stepRunning then busyWith 2 s
  else if s.brc.unit = .recovery then busyWith 3 s
  else
    let f := enterMode .service s
    let e := clearStandby f.1
    answerOk (react (e.1, e.2 ++ f.2)) []

/-- SERVICE_LEAVE: the service move ends, the hold marks clear, GRINDER and BREWER stop, IDLE loads, HEATER is recomputed,
the service grind wish falls, the mode becomes SERVING (R67, R200). -/
def serviceLeave (s : State) : Eff :=
  let s1 := setGrinder false (moveOver s)
  let s2 := heatLoad (phaseSet .idle (s1.onDcu fun u => { u with holds := HoldMarks.clear, serviceGrind := false }))
  let e := clearServiceWish s2
  let f := enterMode .serving e.1
  (f.1, e.2 ++ f.2)

def answerServiceLeave (s : State) : Answer := answerOk (react (serviceLeave s)) []

/-- A counter whose fallback latch is cleared; its monitor starts if its channel is driven (R83). -/
def relatched (driven : Bool) (now : Nat) (k : Counter) : Counter :=
  if k.latch then { k with latch := false, monitor := if driven then .spinUp now else .off } else k

/-- SERVICE_RESET (R83, R97, R106, R118, R201). -/
def serviceReset (s : State) : Eff :=
  let s1 := s.onCnu fun u => { u with
    grind := relatched s.dcu.grinder s.timeBase u.grind, flow := relatched (decide (0 < s.dcu.pump)) s.timeBase u.flow, skips := 0 }
  let s2 := s1.onGrc fun g => { g with fault := false, overloads := 0 }
  let s3 := s2.onBrc fun b => { b with stuck := b.stuck && s.pins.brTop && s.pins.brBot, overheat := b.overheat && s.pins.boilOvht }
  (s3, [.brcHeat, .brcRegulator, .oruStart])

def answerServiceReset (s : State) : Answer :=
  let s1 := react (serviceReset s)
  answerOk s1 (field1 (flagCode s1.brc.stuck + 2 * flagCode s1.brc.overheat))

def answerPartId (s : State) : Answer := answerOk s (field2 226 ++ field1 s.conf.version ++ field1 s.conf.station)

/-! ### Log requests (R166 to R168) -/

def answerLogRead (s : State) : Answer :=
  let taken := s.plg.log.take 4
  answerOk s (field1 taken.length ++ taken.flatMap logEntryBytes ++ field1 s.plg.log.length ++ field1 s.plg.reserve
    ++ field2 s.plg.nextSeq ++ field1 s.plg.epoch)

/-- LOG_ACK (R167, R168). In START the watermark that the count is compared with is 0, so the flag keeps its value (the model's
choice, log 52). -/
def answerLogAck (n : Nat) (s : State) : Answer :=
  match ackLog n s.plg.log with
  | none => refuse .badSequence s
  | some rest =>
    answerOk (s.onPlg fun p => { p with log := rest, armed := p.armed || decide (rest.length < s.conf.watermark) })
      (field1 (s.plg.log.length - rest.length) ++ field1 rest.length)

/-! ### Order requests (R124, R125, R135, R208) -/

/-- The payment mode is 1 for BADGE or 2 for FREE; another is no request (R208). -/
def answerOrder (recipe size strength payMode : Nat) (s : State) : Answer :=
  if payMode ≠ 1 ∧ payMode ≠ 2 then refuse .badRequest s
  else
    let free := payMode == 2
    match s.orderTest recipe size strength free with
    | some r => refuse r s
    | none =>
      let o := s.newOrder recipe size strength free
      answerOk (react (admitOrder o s)) (field1 o.number ++ field1 (orderStateCode o.state) ++ field2 o.price)

def answerCancel (n : Nat) (s : State) : Answer :=
  let r := cancelOrder n s
  { state := if r.2 = .noSuchOrder then s else react r.1, result := r.2, body := [], notices := 0 }

/-! ### Cleaning requests (R182, R190, R196) -/

def answerCleanRequest (kind : Nat) (s : State) : Answer :=
  match cleanKindOfCode kind with
  | none => refuse .badRequest s
  | some k =>
    answerOk (react ((setDue k s).onClc fun u => { u with held := setKindMark u.held k false }, [])) []

def answerCleanCancel (s : State) : Answer :=
  if s.clc.state = .idle then refuse .noCycle s else answerOk (react (clcAbort .cancelled false s)) []

def answerPromptDone (s : State) : Answer :=
  if s.clc.state = .prompt then answerOk (react (clcStepEnd s)) [] else refuse .noPrompt s

/-! ### Service drive (R65, R66) -/

/-- The active value of a channel by its code (12_formats.md). -/
def channelValue (channel : Nat) (s : State) : Nat :=
  match channel with
  | 1 => s.dcu.heater
  | 2 => s.dcu.pump
  | 3 => flagCode s.dcu.grinder
  | 4 => brewerCode s.dcu.brewer
  | 5 => flagCode s.dcu.valveBrew
  | 6 => flagCode s.dcu.valveDrain
  | _ => flagCode s.dcu.valveRinse

/-- A value suits its channel (R65, 12_formats.md). -/
def suits (channel value : Nat) : Bool :=
  match channel with
  | 1 | 2 => value ≤ 100
  | 4 => value ≤ 2
  | _ => value ≤ 1

/-- GRINDER ON in service: marks set, the wish raised, and ON at once where grind permission stands (R66). -/
def serviceGrindOn (s : State) : Eff :=
  let s1 := s.onDcu fun u => { u with holds := { u.holds with grinder := true }, serviceGrind := true }
  let s2 := if s.dcu.grindPerm then setGrinder true s1 else s1
  (s2.onGrc fun g => { g with serviceWish := true }, [.stuGrindWish true])

/-- GRINDER OFF in service (R66). -/
def serviceGrindOff (s : State) : Eff :=
  clearServiceWish ((setGrinder false s).onDcu fun u => { u with holds := { u.holds with grinder := true }, serviceGrind := false })

/-- A service move; a move in the other direction ends first, one in the same direction goes on (R60, R66). With the brewer-stuck
latch set no move starts (R106); the answer is OK all the same, with the value STOP that BREWER has (the model's choice, log 57). A move
that goes on keeps its deadline (the model's choice, log 64). -/
def serviceMove (up : Bool) (s : State) : Eff :=
  if s.brc.move.any (fun m => m.up == up) then (s, [])
  else (if s.brc.move.isSome then moveOver s else s, [.brcMove up])

/-- A service drive whose value suits: its effect, or the refusal (R65, R66). -/
def serviceDrive (channel value : Nat) (s : State) : Except Result Eff :=
  match channel with
  | 1 => .ok (s.onDcu fun u => { u with
      heater := if s.heaterBarred then 0 else min value (heatDuty s.conf u.granted), holds := { u.holds with heater := true } }, [])
  | 2 =>
    if 0 < value ∧ s.dcu.basePerm = false then .error .noBase
    else .ok (setPump value (s.onDcu fun u => { u with holds := { u.holds with pump := true } }), [])
  | 3 =>
    if value = 0 then .ok (serviceGrindOff s)
    else if s.grinderBarred then .error .grinderBlocked
    else .ok (serviceGrindOn s)
  | 4 =>
    if value = 0 then .ok (moveOver s, [])
    else if !s.dcu.basePerm then .error .noBase
    else .ok (serviceMove (value == 1) s)
  | 5 => .ok (s.onDcu fun u => { u with valveBrew := value == 1, holds := { u.holds with valveBrew := true } }, [])
  | 6 => .ok (s.onDcu fun u => { u with valveDrain := value == 1, holds := { u.holds with valveDrain := true } }, [])
  | _ => .ok (s.onDcu fun u => { u with valveRinse := value == 1, holds := { u.holds with valveRinse := true } }, [])

def answerServiceDrive (channel value : Nat) (s : State) : Answer :=
  if channel < 1 ∨ 7 < channel then refuse .badRequest s
  else if s.plk.mode ≠ .service then refuse .notService s
  else if !suits channel value then refuse .badValue s
  else match serviceDrive channel value s with
    | .error r => refuse r s
    | .ok e =>
      let s1 := react e
      answerOk s1 (field1 (channelValue channel s1))

/-! ### The requests by name -/

def reqStatus (s : State) : State := request 1 0 .always answerStatus s
def reqNoticeRead (s : State) : State := request 3 0 .unlessHalted answerNoticeRead s
def reqLogRead (s : State) : State := request 4 0 .unlessHalted answerLogRead s
def reqLogAck (n : Nat) (s : State) : State := request 5 2 .unlessHalted (answerLogAck n) s
def reqOrder (recipe size strength payMode : Nat) (s : State) : State :=
  request 6 4 .unlessHalted (answerOrder recipe size strength payMode) s
def reqCancel (n : Nat) (s : State) : State := request 7 1 .unlessHalted (answerCancel n) s
def reqCleanRequest (kind : Nat) (s : State) : State := request 8 1 .cleaning (answerCleanRequest kind) s
def reqCleanCancel (s : State) : State := request 9 0 .cleaning answerCleanCancel s
def reqPromptDone (s : State) : State := request 10 0 .cleaning answerPromptDone s
def reqServiceEnter (s : State) : State := request 11 0 .enter answerServiceEnter s
def reqServiceLeave (s : State) : State := request 12 0 .service answerServiceLeave s
def reqServiceReset (s : State) : State := request 13 0 .service answerServiceReset s
def reqServiceDrive (channel value : Nat) (s : State) : State := request 14 2 .enter (answerServiceDrive channel value) s
def reqPartId (s : State) : State := request 15 0 .always answerPartId s

/-! ### READ_REPLY (R193) -/

/-- The bytes that P_MISO would send for the slot: the reply, or a reply of kind NONE. -/
def State.slotBytes (s : State) : List Byte := replyBytes (s.plk.reply.getD noneReply)

/-- `n` bytes clocked out of a message, idle past its end. -/
def clockOut (n : Nat) (bytes : List Byte) : List Byte := bytes.take n ++ List.replicate (n - bytes.length) idleByte

/-- A READ_REPLY transfer with its length and check bytes and the number of bytes clocked after them (R193). During its own three
bytes P_MISO carries the idle value (the model's choice, log 63). -/
def readReply (length check : Byte) (clocked : Nat) (s : State) : State :=
  if s.pins.resetAsserted then s
  else if length ≠ 0#8 ∨ sumBytes [2#8, length, check] ≠ 0#8 then
    s.onPlk fun p => { p with miso := List.replicate (3 + clocked) idleByte }
  else
    s.onPlk fun p => { p with
      miso := List.replicate 3 idleByte ++ clockOut clocked s.slotBytes,
      reply := if s.slotBytes.length ≤ clocked then none else p.reply }

/-! ### A transfer given by its bytes (R192) -/

/-- A request judged by its bytes that passes the first two tests goes to its owner. -/
def requestOf (kind : Nat) (body : List Byte) (s : State) : State :=
  let b := fun (k : Nat) => (body.getD k 0#8).toNat
  match kind with
  | 1 => reqStatus s
  | 3 => reqNoticeRead s
  | 4 => reqLogRead s
  | 5 => reqLogAck (b 0 * 256 + b 1) s
  | 6 => reqOrder (b 0) (b 1) (b 2) (b 3) s
  | 7 => reqCancel (b 0) s
  | 8 => reqCleanRequest (b 0) s
  | 9 => reqCleanCancel s
  | 10 => reqPromptDone s
  | 11 => reqServiceEnter s
  | 12 => reqServiceLeave s
  | 13 => reqServiceReset s
  | 14 => reqServiceDrive (b 0) (b 1) s
  | _ => reqPartId s

/-- The bytes are a message of the length they state, with sum 0 (R192). -/
def checkedRequest (bytes : List Byte) : Bool :=
  decide (3 ≤ bytes.length) && (bytes.getD 1 0#8).toNat + 3 == bytes.length && sumBytes bytes == 0#8

/-- A panel transfer judged in the order of R192. A transfer that begins as READ_REPLY is taken as one (R193; log 24). -/
def panelTransfer (bytes : List Byte) (s : State) : State :=
  if s.pins.resetAsserted || bytes.isEmpty then s
  else
    let kind := bytes.getD 0 0#8
    if kind = 2#8 then
      (if bytes.length < 3 then s.onPlk fun p => { p with miso := List.replicate bytes.length idleByte }
       else readReply (bytes.getD 1 0#8) (bytes.getD 2 0#8) (bytes.length - 3) s)
    else if !checkedRequest bytes then placeReply kind bytes.length (refuse .badCheck s)
    else if requestBodyLength kind.toNat ≠ some (bytes.getD 1 0#8).toNat then placeReply kind bytes.length (refuse .badRequest s)
    else requestOf kind.toNat ((bytes.drop 2).dropLast) s

end Sys2Proof.Machine
end

