-- ==== Sys2Proof/Machine/Due.lean ====
section
/-! DEFINITION. When each timer row of the table falls due (log 2). A timer command has its effect only while its predicate
holds; the idle step puts the due ones into the queue. -/

namespace Sys2Proof.Machine

/-- The time base has reached a deadline that is held. -/
def State.reached (s : State) (deadline : Option Nat) : Bool := deadline.any fun d => decide (d ≤ s.timeBase)

/-- The time base has reached a moment. -/
def State.past (s : State) (moment : Nat) : Bool := decide (moment ≤ s.timeBase)

/-! ### The Share Line and the share table -/

/-- R16. -/
def State.dueAccess (s : State) : Bool := s.working && s.winner.isSome

/-- R17. -/
def State.dueGuardEnd (s : State) : Bool := s.working && s.lau.guard && decide (160 ≤ s.lau.guardCount)

/-- R26. -/
def State.dueLease (s : State) (n : Nat) : Bool := s.working && (s.entry n).live && s.past (s.entry n).leaseDeadline

/-- R26. -/
def State.dueHoldDeadline (s : State) (n : Nat) : Bool :=
  s.working && (s.entry n).live && (s.entry n).held.any fun h => s.past h.deadline

/-- A CLAIM asked to try a raise is queued. -/
def State.claimAsked (s : State) : Bool :=
  s.lau.queue.any fun t => t.offer == .claim true || t.again == some (.claim true)

/-- R37: an unmet wish whose denied-at time is 1 s old, no CLAIM already asked to try it, and no retry point already held by a
pending raise (log 9, 28). -/
def State.dueRetry (s : State) : Bool :=
  s.working && s.stu.deniedAt.any (fun t => s.past (t + 1000)) && s.stu.pending.all (fun p => !p.heldRetry) && s.stu.lineState != .isolated
    && raisesOver s.wishes s.stu.confirmed && !s.claimAsked

/-- R40. -/
def State.dueRenewal (s : State) : Bool :=
  s.working && (s.plk.mode == .serving || s.plk.mode == .service)
    && s.past (max s.stu.lastClaimPosted s.stu.lastRenewalDue + s.renewalPeriod)

/-- R43. -/
def State.dueStaleClear (s : State) : Bool := s.working && s.stu.stale && s.past s.stu.staleClearTime

/-- A NEED is queued. -/
def State.needQueued (s : State) : Bool := s.lau.queue.any fun t => offerKind t.offer == .need

/-- R44. While a NEED is queued none is offered again (log 28). -/
def State.dueNeed (s : State) : Bool :=
  s.working && s.stu.unmetSince.any (fun t => s.past (t + 2000)) && decide (1 ≤ s.unitsShort) && s.stu.lineState != .isolated
    && s.stu.lastNeedPosted.all (fun t => s.past (t + s.conf.needHoldS * 500)) && !s.needQueued

/-- R46. -/
def State.dueStepDownEnd (s : State) : Bool := s.working && s.reached s.stu.stepDown

/-! ### Counting -/

/-- R79. -/
def State.dueSpinUp (s : State) (c : CounterId) : Bool :=
  s.working && match (s.counter c).monitor with
    | .spinUp since => s.past (since + s.conf.spinUp)
    | _ => false

/-- R80. -/
def State.dueLoss (s : State) (c : CounterId) : Bool :=
  s.working && match (s.counter c).monitor with
    | .watch last => s.past (last + s.lossTime c)
    | _ => false

/-- R82. -/
def State.dueTimedEnd (s : State) (c : CounterId) : Bool :=
  s.working && (s.counter c).run == .timed && s.reached (s.counter c).endTime

/-! ### Grinding and brewing -/

/-- R92. -/
def State.dueGrindPower (s : State) : Bool := s.working && s.grc.state == .waitPower && s.reached s.grc.waitDeadline

/-- R106. -/
def State.dueMotion (s : State) : Bool := s.working && s.brc.move.any fun m => s.past m.deadline

/-- The deadline of the cup run in this state is reached (R107). -/
def State.dueRun (s : State) (st : RunState) : Bool :=
  s.working && s.cupRun.any fun r => r.state == st && s.reached r.deadline

/-- R112. -/
def State.dueEject (s : State) : Bool :=
  s.working && s.cupRun.any fun r => r.state == .eject && r.waiting && s.reached r.deadline

/-- R120. -/
def State.dueStandby (s : State) : Bool :=
  s.working && !s.brc.standby && s.brc.standbySince.any fun t => s.past (t + s.conf.standbyMin * 60000)

/-! ### Orders and payment -/

/-- R128. -/
def State.dueTap (s : State) (n : Nat) : Bool :=
  s.working && s.oru.queue.any fun o => o.number == n && o.state == .waitPay && s.reached o.tapDeadline

/-- R142. -/
def State.dueReaderSend (s : State) : Bool := s.working && !s.pyu.sendQueue.isEmpty && decide (s.pyu.sendFreeAt ≤ s.units)

/-- The deadline of the payment in this state is reached (R143). -/
def State.duePayment (s : State) (st : PayState) : Bool :=
  s.working && s.pyu.payment.any fun p => p.state == st && s.reached p.deadline

/-- R151. -/
def State.dueRefresh (s : State) : Bool :=
  s.working && s.pyu.payment.any fun p => p.hold == .settled && s.past (p.refreshBase + s.refreshPeriod)

/-- R151. -/
def State.dueLapse (s : State) : Bool :=
  s.working && s.pyu.payment.any fun p => p.hold == .settled && !p.lapsed && s.past (p.lastTake + s.conf.holdLeaseS * 1000)

/-! ### Cleaning -/

/-- R177. -/
def State.dueCycle (s : State) : Bool :=
  s.working && (s.clc.state == .idle || s.clc.state == .suspended) && s.startConditions

/-- The deadline of the running step is reached (R180, R182). -/
def State.dueStep (s : State) : Bool := s.working && s.runningStep.any fun c => s.reached c.deadline

/-- R188. -/
def State.dueSuspend (s : State) : Bool :=
  s.working && (s.clc.state == .suspended || (s.clc.state == .waitSlot && s.clc.cycle.any Cycle.resuming))
    && s.clc.resume.any fun r => s.past (r.time + s.conf.suspendLimitMin * 60000)

/-! ### The due rows -/

/-- A row, if it is due. -/
def whenDue (due : Bool) (c : Instr) : List Instr := if due then [c] else []

/-- The stations with a due row. -/
def State.dueStations (s : State) (due : State → Nat → Bool) (c : Nat → Instr) : List Instr :=
  (List.range 15).flatMap fun k => whenDue (due s (k + 1)) (c (k + 1))

def State.dueShare (s : State) : List Instr :=
  whenDue s.dueGuardEnd .guardEnd ++ s.dueStations State.dueLease .leaseExpiry
    ++ s.dueStations State.dueHoldDeadline .holdDeadlineExpiry ++ whenDue s.dueStaleClear .staleClearTime
    ++ whenDue s.dueStepDownEnd .stepDownEnd ++ whenDue s.dueRetry .retryTimer ++ whenDue s.dueRenewal .renewalDue
    ++ whenDue s.dueNeed .needUnmetTimer ++ whenDue s.dueAccess .accessWon

def State.dueCounter (s : State) (c : CounterId) : List Instr :=
  whenDue (s.dueSpinUp c) (.spinUpExpiry c) ++ whenDue (s.dueLoss c) (.lossTimeExpiry c)
    ++ whenDue (s.dueTimedEnd c) (.timedRunEnd c)

def State.dueBrewing (s : State) : List Instr :=
  whenDue s.dueGrindPower .grindPowerTimeout ++ whenDue s.dueMotion .brewerMotionTimeout
    ++ whenDue (s.dueRun .prewet) .prewetLimitExpiry ++ whenDue (s.dueRun .soak) .soakTimerExpiry
    ++ whenDue (s.dueRun .heatWait) .heatWaitTimeout ++ whenDue (s.dueRun .extract) .extractionDeadline
    ++ whenDue (s.dueRun .drain) .drainTimerExpiry ++ whenDue s.dueEject .ejectTimeout
    ++ whenDue s.recoveryConditions .recoveryEjectStart ++ whenDue s.dueStandby .standbyTimeout

def State.dueOrders (s : State) : List Instr := s.oru.queue.flatMap fun o => whenDue (s.dueTap o.number) (.tapDeadline o.number)

def State.duePayments (s : State) : List Instr :=
  whenDue (s.duePayment .writing) .writeReplyTimeout ++ whenDue s.dueLapse .holdLapse ++ whenDue s.dueRefresh .holdRefreshDue
    ++ whenDue (s.duePayment .hold) .holdWaitTimeout ++ whenDue (s.duePayment .verify) .retapDeadline
    ++ whenDue s.dueReaderSend .readerSendStart

def State.dueCleaning (s : State) : List Instr :=
  whenDue (s.dueStep && isFlush s.runningKind) .flushDeadline
    ++ whenDue (s.dueStep && s.runningKind == some .heatWait) .cleanHeatWaitTimeout
    ++ whenDue (s.dueStep && isTimed s.runningKind) .stepTimerExpiry
    ++ whenDue (s.dueStep && s.clc.state == .prompt) .promptTimeout ++ whenDue s.dueSuspend .suspendLimitExpiry
    ++ whenDue s.dueCycle .cycleStart

/-- The rows that have fallen due, in a fixed order (log 2). -/
def State.dueRows (s : State) : List Instr :=
  s.dueCounter .grind ++ s.dueCounter .flow ++ s.dueBrewing ++ s.dueOrders ++ s.duePayments ++ s.dueCleaning ++ s.dueShare

/-! ### The passing of time -/

/-- What an idle step passes in units of 1/576000 s: a bit time of the Share Line, or 1 ms while none is configured (log 1). -/
def State.tickUnits (s : State) : Nat := if s.working then bitUnits s.conf.bitRate else 576

/-- The line is high, no frame of this station is on it, and the receiver gathers no frame (R15, R17). -/
def State.lineIdle (s : State) : Bool := s.lau.receiver == .hunt && !s.pins.lineLow && !s.transmitting

/-- The guard count runs on idle bit times also within the header window, and never while the line is low (R17). -/
def State.guardRuns (s : State) : Bool :=
  s.lau.guard && !s.pins.lineLow && !s.transmitting && (s.lau.receiver == .hunt || s.lau.receiver == .sync true)

/-- One bit time on the line: the frame in transmission, the idle timer and the guard count (R3, R15, R17). -/
def tickLine (s : State) : State :=
  s.onLau fun l => { l with txBit := if s.transmitting then l.txBit + 1 else l.txBit,
                            idleTimer := if s.lineIdle then l.idleTimer + 1 else l.idleTimer,
                            guardCount := if s.guardRuns then l.guardCount + 1 else l.guardCount }

/-- At a boundary of the 5 ms periods PUMP and GRIND take the duty of the new period (R52; log 29). -/
def latchDuties (s : State) : State :=
  s.onDcu fun u => { u with pumpPeriod := u.pump, grinderPeriod := if u.grinder then s.conf.grinderDuty else 0 }

/-- Time passes (R1, R52, R202). -/
def tick (s : State) : State :=
  let units := s.subMs + s.tickUnits
  let s1 := if s.working then tickLine s else s
  let s2 := { s1 with timeBase := s.timeBase + units / 576, subMs := units % 576 }
  if s.timeBase / 5 < s2.timeBase / 5 then latchDuties s2 else s2

/-- The idle step: time passes, and the rows that have fallen due join the queue (log 1, 2). -/
def idle (s : State) : State :=
  let s1 := tick s
  { s1 with pending := s1.pending ++ s1.dueRows }

end Sys2Proof.Machine
end

