-- ==== Sys2Proof/Machine/StartCommands.lean ====
section
/-! DEFINITION. The meanings of the reset and configuration commands (R202 to R206), and what the command files share. -/

namespace Sys2Proof.Machine

/-- What a command comes to. -/
abbrev Out := Host.Outcome State Fault Refusal

/-- An event that the blocks take only while a configuration is loaded and the station is not HALTED (R22, R69, R121, R140, R206). -/
def whenWorking (f : State → Eff) (s : State) : State := if s.working then react (f s) else s

/-- A timer command acts while its moment has come, and changes nothing otherwise (log 2). -/
def onDue (due : Bool) (f : State → Eff) (s : State) : State := if due then react (f s) else s

/-- SUPPLY_UP (R202). -/
def execSupplyUp (resetAsserted : Bool) (s : State) : Out := .next (powerOn resetAsserted s)

/-- RESET_N_ASSERT (R203). -/
def execResetNAssert (ramIntact : Bool) (s : State) : Out := .next (resetAssert ramIntact s)

/-- RESET_N_NEGATE (R202, R203). -/
def execResetNNegate (s : State) : Out := .next (resetNegate s)

/-- CONFIG_READ_DONE (R204 to R206). -/
def execConfigReadDone (image : List Byte) (s : State) : Out := .next (configRead image s)

end Sys2Proof.Machine
end

