-- ==== Sys2Proof/Machine/BrewCommands.lean ====
section
/-! DEFINITION. The meanings of the brewing and boiler commands (R106 to R120). -/

namespace Sys2Proof.Machine

/-- BREWER_END_SWITCH (R106). -/
def execBrewerEndSwitch (top bottom : Bool) (s : State) : Out := .next (react (switchChange top bottom s))

/-- BREWER_MOTION_TIMEOUT (R106). -/
def execBrewerMotionTimeout (s : State) : Out := .next (onDue s.dueMotion moveTimeout s)

/-- PREWET_LIMIT_EXPIRY (R109). -/
def execPrewetLimitExpiry (s : State) : Out := .next (onDue (s.dueRun .prewet) prewetLimit s)

/-- SOAK_TIMER_EXPIRY (R109). -/
def execSoakTimerExpiry (s : State) : Out := .next (onDue (s.dueRun .soak) (brcEnter .heatWait) s)

/-- HEAT_WAIT_TIMEOUT (R110). -/
def execHeatWaitTimeout (s : State) : Out := .next (onDue (s.dueRun .heatWait) (brcAbort .heatTimeout) s)

/-- EXTRACTION_DEADLINE (R111). -/
def execExtractionDeadline (s : State) : Out := .next (onDue (s.dueRun .extract) extractionEnd s)

/-- DRAIN_TIMER_EXPIRY (R107). -/
def execDrainTimerExpiry (s : State) : Out := .next (onDue (s.dueRun .drain) (brcEnter .eject) s)

/-- EJECT_TIMEOUT (R112). -/
def execEjectTimeout (s : State) : Out := .next (onDue s.dueEject (endCupRun .retained) s)

/-- DRAWER_IN_CHANGE (R112, R114, R116). -/
def execDrawerInChange (inPlace : Bool) (s : State) : Out := .next (react (drawerChange inPlace s))

/-- RECOVERY_EJECT_START (R114). -/
def execRecoveryEjectStart (s : State) : Out := .next (onDue s.recoveryConditions recoveryStart s)

/-- BOIL_COLD_CHANGE (R117). -/
def execBoilColdChange (cold : Bool) (s : State) : Out := .next (react (boilerChange cold s))

/-- BOIL_OVHT_ASSERT, with the negation (R58, R118; log 4). -/
def execBoilOvhtAssert (asserted : Bool) (s : State) : Out := .next (react (overheatChange asserted s))

/-- STANDBY_TIMEOUT (R120). -/
def execStandbyTimeout (s : State) : Out :=
  .next (onDue s.dueStandby (fun s => (s.onBrc fun b => { b with standby := true }, [.brcHeat])) s)

end Sys2Proof.Machine
end

