-- ==== Sys2Proof/Machine/CleanCommands.lean ====
section
/-! DEFINITION. The meanings of the cleaning commands (R177, R180, R182, R188, R190). -/

namespace Sys2Proof.Machine

/-- CYCLE_START (R177). -/
def execCycleStart (s : State) : Out := .next (onDue s.dueCycle clcStart s)

/-- FLUSH_DEADLINE: the flow run is disarmed, and its RUN_ENDED ends the step (R180). -/
def execFlushDeadline (s : State) : Out := .next (onDue (s.dueStep && isFlush s.runningKind) (disarm .flow) s)

/-- CLEAN_HEAT_WAIT_TIMEOUT (R180, R189). -/
def execCleanHeatWaitTimeout (s : State) : Out :=
  .next (onDue (s.dueStep && s.runningKind == some .heatWait) (clcAbort .heatTimeout false) s)

/-- STEP_TIMER_EXPIRY (R180, R181). -/
def execStepTimerExpiry (s : State) : Out := .next (onDue (s.dueStep && isTimed s.runningKind) clcStepEnd s)

/-- PROMPT_DONE (R182). -/
def execPromptDone (s : State) : Out := .next (reqPromptDone s)

/-- PROMPT_TIMEOUT (R182, R189). -/
def execPromptTimeout (s : State) : Out :=
  .next (onDue (s.dueStep && s.clc.state == .prompt) (clcAbort .promptTimeout false) s)

/-- SUSPEND_LIMIT_EXPIRY (R188). -/
def execSuspendLimitExpiry (s : State) : Out := .next (onDue s.dueSuspend clcDrop s)

/-- CLEAN_REQUEST (R190, R196). -/
def execCleanRequest (kind : Byte) (s : State) : Out := .next (reqCleanRequest kind.toNat s)

/-- CLEAN_CANCEL (R190). -/
def execCleanCancel (s : State) : Out := .next (reqCleanCancel s)

end Sys2Proof.Machine
end

