-- ==== Sys2Proof/Machine/CountingCommands.lean ====
section
/-! DEFINITION. The meanings of the counting and grinding commands (R70 to R74, R79 to R82, R92, R95, R96). -/

namespace Sys2Proof.Machine

/-- ENCODER_STEP (R70, R71, R74). -/
def execEncoderStep (encA encB : Bool) (s : State) : Out := .next (react (encoderChange encA encB s))

/-- FLOW_EDGE (R72, R74). -/
def execFlowEdge (s : State) : Out := .next (whenWorking flowRise s)

/-- SPIN_UP_EXPIRY (R79). -/
def execSpinUpExpiry (c : CounterId) (s : State) : Out := .next (onDue (s.dueSpinUp c) (fun s => (spinUpDone c s, [])) s)

/-- LOSS_TIME_EXPIRY (R80, R81). -/
def execLossTimeExpiry (c : CounterId) (s : State) : Out := .next (onDue (s.dueLoss c) (fun s => (lossTrip c s, [])) s)

/-- TIMED_RUN_END (R82). -/
def execTimedRunEnd (c : CounterId) (s : State) : Out := .next (onDue (s.dueTimedEnd c) (timeEnd c) s)

/-- GRIND_POWER_TIMEOUT (R92). -/
def execGrindPowerTimeout (s : State) : Out := .next (onDue s.dueGrindPower grindPowerEnd s)

/-- LID_OPEN_ASSERT, with the negation (R59, R66, R95, R102; log 4). -/
def execLidOpenAssert (asserted : Bool) (s : State) : Out := .next (react (lidChange asserted s))

/-- GR_OVLD_ASSERT, with the negation (R59, R66, R96, R102; log 4). -/
def execGrOvldAssert (asserted : Bool) (s : State) : Out := .next (react (overloadChange asserted s))

end Sys2Proof.Machine
end

