-- ==== Sys2Proof/Machine/LineCommands.lean ====
section
/-! DEFINITION. The meanings of the Share Line commands (R7 to R11, R15 to R21). -/

namespace Sys2Proof.Machine

/-- LINE_BREAK_DETECTED (R7). -/
def execLineBreakDetected (s : State) : Out := .next (lineBreak s)

/-- SYNC_BREAK_END (R8). -/
def execSyncBreakEnd (s : State) : Out := .next (syncOpen s)

/-- SYNC_WINDOW_CLOSE (R8). -/
def execSyncWindowClose (s : State) : Out := .next (syncClose s)

/-- RX_CHARACTER (R8 to R10, R207). -/
def execRxCharacter (data : Byte) (flag framingError : Bool) (s : State) : Out :=
  .next (if s.working then whenWorking (rxCharacter data flag framingError) s else setLine framingError s)

/-- RX_IDLE_TIMEOUT (R9). -/
def execRxIdleTimeout (s : State) : Out := .next (whenWorking rxIdle s)

/-- CLAIM_DELIVERED (R10, R24, R38). -/
def execClaimDelivered (sender : Nat) (b : ClaimBody) (s : State) : Out := .next (whenWorking (deliver sender (.claim b)) s)

/-- HOLD_DELIVERED (R10, R25, R152, R153). -/
def execHoldDelivered (sender : Nat) (b : HoldBody) (s : State) : Out := .next (whenWorking (deliver sender (.hold b)) s)

/-- JOIN_DELIVERED (R10, R27). -/
def execJoinDelivered (sender : Nat) (b : JoinBody) (s : State) : Out := .next (whenWorking (deliver sender (.join b)) s)

/-- DISPUTE_DELIVERED (R10, R14, R35, R39, R150). -/
def execDisputeDelivered (sender : Nat) (b : DisputeBody) (s : State) : Out :=
  .next (whenWorking (deliver sender (.dispute b)) s)

/-- NEED_DELIVERED (R10, R39, R45). -/
def execNeedDelivered (sender : Nat) (b : NeedBody) (s : State) : Out := .next (whenWorking (deliver sender (.need b)) s)

/-- SAME_STATION_FRAME (R11). -/
def execSameStationFrame (f : Frame) (s : State) : Out := .next (whenWorking (fun s => (sameStation f s, [])) s)

/-- ACCESS_WON (R16). -/
def execAccessWon (s : State) : Out := .next (onDue s.dueAccess lauAccess s)

/-- COLLISION (R18, R19). -/
def execCollision (s : State) : Out := .next (whenWorking collision s)

/-- FRAME_POSTED (R21). -/
def execFramePosted (s : State) : Out := .next (whenWorking framePosted s)

/-- GUARD_END (R17, R34, R149). -/
def execGuardEnd (s : State) : Out := .next (onDue s.dueGuardEnd guardEnd s)

/-- LINE_LOW_LEVEL (R15, R17). -/
def execLineLowLevel (stillLow : Bool) (s : State) : Out := .next (lineLow stillLow s)

end Sys2Proof.Machine
end

