-- ==== Sys2Proof/Machine/OrderCommands.lean ====
section
/-! DEFINITION. The meanings of the order and purchase log commands (R124, R125, R128, R135, R166, R167). -/

namespace Sys2Proof.Machine

/-- ORDER (R124, R125). -/
def execOrder (recipe size strength payMode : Byte) (s : State) : Out :=
  .next (reqOrder recipe.toNat size.toNat strength.toNat payMode.toNat s)

/-- CANCEL (R135). -/
def execCancel (number : Byte) (s : State) : Out := .next (reqCancel number.toNat s)

/-- TAP_DEADLINE (R128). -/
def execTapDeadline (number : Nat) (s : State) : Out := .next (onDue (s.dueTap number) (tapExpiry number) s)

/-- LOG_READ (R166). -/
def execLogRead (s : State) : Out := .next (reqLogRead s)

/-- LOG_ACK (R167, R168). -/
def execLogAck (sequence : Nat) (s : State) : Out := .next (reqLogAck sequence s)

end Sys2Proof.Machine
end

