-- ==== Sys2Proof/Machine/PanelCommands.lean ====
section
/-! DEFINITION. The meanings of the panel link commands (R192, R193, R195, R197, R199 to R201, R65, R208). -/

namespace Sys2Proof.Machine

/-- STATUS (R197). -/
def execStatus (s : State) : Out := .next (reqStatus s)

/-- READ_REPLY (R193). -/
def execReadReply (length check : Byte) (clocked : Nat) (s : State) : Out := .next (readReply length check clocked s)

/-- NOTICE_READ (R195). -/
def execNoticeRead (s : State) : Out := .next (reqNoticeRead s)

/-- SERVICE_ENTER (R199). -/
def execServiceEnter (s : State) : Out := .next (reqServiceEnter s)

/-- SERVICE_LEAVE (R200). -/
def execServiceLeave (s : State) : Out := .next (reqServiceLeave s)

/-- SERVICE_RESET (R201). -/
def execServiceReset (s : State) : Out := .next (reqServiceReset s)

/-- SERVICE_DRIVE (R65, R66). -/
def execServiceDrive (channel value : Byte) (s : State) : Out := .next (reqServiceDrive channel.toNat value.toNat s)

/-- PART_ID (R208). -/
def execPartId (s : State) : Out := .next (reqPartId s)

/-- PANEL_TRANSFER_INVALID: a transfer given by its bytes, judged in the order of R192 (log 24). -/
def execPanelTransferInvalid (bytes : List Byte) (s : State) : Out := .next (panelTransfer bytes s)

end Sys2Proof.Machine
end

