-- ==== Sys2Proof/Machine/PaymentCommands.lean ====
section
/-! DEFINITION. The meanings of the cashless payment commands (R140 to R158). -/

namespace Sys2Proof.Machine

/-- Records that passed the tests are taken one after another (R140). -/
def takeReaderRecords : List ReaderRecord → State → State
  | [], s => s
  | r :: rest, s => takeReaderRecords rest (whenWorking (takeReaderRecord r) s)

/-- READER_PRESENT (R144 to R146, R157). -/
def execReaderPresent (badge : Badge) (balance cardSeq : Nat) (s : State) : Out :=
  .next (whenWorking (readerPresent badge balance cardSeq) s)

/-- READER_REMOVED (R146). -/
def execReaderRemoved (badge : Badge) (s : State) : Out := .next (whenWorking (readerRemoved badge) s)

/-- READER_WRITTEN (R146, R154). -/
def execReaderWritten (badge : Badge) (newSeq : Nat) (s : State) : Out := .next (whenWorking (readerWritten badge newSeq) s)

/-- READER_WRITE_FAILED (R146, R155). -/
def execReaderWriteFailed (badge : Badge) (rejected : Bool) (s : State) : Out :=
  .next (whenWorking (readerWriteFailed badge rejected) s)

/-- READER_RECORD_BAD: the characters are gathered and each ended record is tested, and discarded without report where a test
fails (R140, R208; log 23). -/
def execReaderRecordBad (chars : List ReaderChar) (s : State) : Out :=
  .next (if s.working then takeReaderRecords ((s.readerRecords chars).filterMap readerRecordOf) (readerHeard s) else s)

/-- READER_SEND_START (R142). -/
def execReaderSendStart (s : State) : Out := .next (onDue s.dueReaderSend (fun s => (readerSend s, [])) s)

/-- WRITE_REPLY_TIMEOUT (R155). -/
def execWriteReplyTimeout (s : State) : Out := .next (onDue (s.duePayment .writing) (fun s => (enterVerify s, [])) s)

/-- HOLD_WAIT_TIMEOUT (R150). -/
def execHoldWaitTimeout (s : State) : Out := .next (onDue (s.duePayment .hold) holdWaitEnd s)

/-- HOLD_REFRESH_DUE (R151). -/
def execHoldRefreshDue (s : State) : Out := .next (onDue s.dueRefresh (fun s => (refreshDue s, [])) s)

/-- HOLD_LAPSE (R151). -/
def execHoldLapse (s : State) : Out := .next (onDue s.dueLapse (fun s => (setPayment (fun p => { p with lapsed := true }) s, [])) s)

/-- RETAP_DEADLINE (R158). -/
def execRetapDeadline (s : State) : Out := .next (onDue (s.duePayment .verify) retapEnd s)

end Sys2Proof.Machine
end

