-- ==== Sys2Proof/Machine/ShareCommands.lean ====
section
/-! DEFINITION. The meanings of the timer commands of the Share Table Unit (R26, R37, R40, R43, R44, R46). -/

namespace Sys2Proof.Machine

/-- LEASE_EXPIRY (R26). -/
def execLeaseExpiry (station : Nat) (s : State) : Out := .next (onDue (s.dueLease station) (leaseExpire station) s)

/-- HOLD_DEADLINE_EXPIRY (R26). -/
def execHoldDeadlineExpiry (station : Nat) (s : State) : Out :=
  .next (onDue (s.dueHoldDeadline station) (holdExpire station) s)

/-- RETRY_TIMER (R37). -/
def execRetryTimer (s : State) : Out := .next (onDue s.dueRetry (fun s => (stuRetry s, [])) s)

/-- RENEWAL_DUE (R40, R47, R48). -/
def execRenewalDue (s : State) : Out := .next (onDue s.dueRenewal renewal s)

/-- STALE_CLEAR_TIME (R43). -/
def execStaleClearTime (s : State) : Out := .next (onDue s.dueStaleClear staleClear s)

/-- NEED_UNMET_TIMER (R44). -/
def execNeedUnmetTimer (s : State) : Out := .next (onDue s.dueNeed (fun s => (offerFrame .need s, [])) s)

/-- STEP_DOWN_END (R46). -/
def execStepDownEnd (s : State) : Out := .next (onDue s.dueStepDownEnd stuStepDownEnd s)

end Sys2Proof.Machine
end

