-- ==== Sys2Proof/Machine/Dispatch.lean ====
section
/-! DEFINITION. The meaning of each command, one arm per row of spec/opcode_table.json. -/

namespace Sys2Proof.Machine

/-- The effect of a command on everything but the queue. -/
def exec (i : Instr) (s : State) : Host.Outcome State Fault Refusal :=
  match i with
  | .supplyUp resetAsserted => Sys2Proof.Machine.execSupplyUp resetAsserted s
  | .resetNAssert ramIntact => Sys2Proof.Machine.execResetNAssert ramIntact s
  | .resetNNegate => Sys2Proof.Machine.execResetNNegate s
  | .configReadDone image => Sys2Proof.Machine.execConfigReadDone image s
  | .lineBreakDetected => Sys2Proof.Machine.execLineBreakDetected s
  | .syncBreakEnd => Sys2Proof.Machine.execSyncBreakEnd s
  | .syncWindowClose => Sys2Proof.Machine.execSyncWindowClose s
  | .rxCharacter data flag framingError => Sys2Proof.Machine.execRxCharacter data flag framingError s
  | .rxIdleTimeout => Sys2Proof.Machine.execRxIdleTimeout s
  | .claimDelivered sender body => Sys2Proof.Machine.execClaimDelivered sender body s
  | .holdDelivered sender body => Sys2Proof.Machine.execHoldDelivered sender body s
  | .joinDelivered sender body => Sys2Proof.Machine.execJoinDelivered sender body s
  | .disputeDelivered sender body => Sys2Proof.Machine.execDisputeDelivered sender body s
  | .needDelivered sender body => Sys2Proof.Machine.execNeedDelivered sender body s
  | .sameStationFrame frame => Sys2Proof.Machine.execSameStationFrame frame s
  | .accessWon => Sys2Proof.Machine.execAccessWon s
  | .collision => Sys2Proof.Machine.execCollision s
  | .framePosted => Sys2Proof.Machine.execFramePosted s
  | .guardEnd => Sys2Proof.Machine.execGuardEnd s
  | .leaseExpiry station => Sys2Proof.Machine.execLeaseExpiry station s
  | .holdDeadlineExpiry station => Sys2Proof.Machine.execHoldDeadlineExpiry station s
  | .retryTimer => Sys2Proof.Machine.execRetryTimer s
  | .renewalDue => Sys2Proof.Machine.execRenewalDue s
  | .staleClearTime => Sys2Proof.Machine.execStaleClearTime s
  | .needUnmetTimer => Sys2Proof.Machine.execNeedUnmetTimer s
  | .stepDownEnd => Sys2Proof.Machine.execStepDownEnd s
  | .encoderStep encA encB => Sys2Proof.Machine.execEncoderStep encA encB s
  | .flowEdge => Sys2Proof.Machine.execFlowEdge s
  | .spinUpExpiry counter => Sys2Proof.Machine.execSpinUpExpiry counter s
  | .lossTimeExpiry counter => Sys2Proof.Machine.execLossTimeExpiry counter s
  | .timedRunEnd counter => Sys2Proof.Machine.execTimedRunEnd counter s
  | .grindPowerTimeout => Sys2Proof.Machine.execGrindPowerTimeout s
  | .lidOpenAssert asserted => Sys2Proof.Machine.execLidOpenAssert asserted s
  | .grOvldAssert asserted => Sys2Proof.Machine.execGrOvldAssert asserted s
  | .brewerEndSwitch top bottom => Sys2Proof.Machine.execBrewerEndSwitch top bottom s
  | .brewerMotionTimeout => Sys2Proof.Machine.execBrewerMotionTimeout s
  | .prewetLimitExpiry => Sys2Proof.Machine.execPrewetLimitExpiry s
  | .soakTimerExpiry => Sys2Proof.Machine.execSoakTimerExpiry s
  | .heatWaitTimeout => Sys2Proof.Machine.execHeatWaitTimeout s
  | .extractionDeadline => Sys2Proof.Machine.execExtractionDeadline s
  | .drainTimerExpiry => Sys2Proof.Machine.execDrainTimerExpiry s
  | .ejectTimeout => Sys2Proof.Machine.execEjectTimeout s
  | .drawerInChange inPlace => Sys2Proof.Machine.execDrawerInChange inPlace s
  | .recoveryEjectStart => Sys2Proof.Machine.execRecoveryEjectStart s
  | .boilColdChange cold => Sys2Proof.Machine.execBoilColdChange cold s
  | .boilOvhtAssert asserted => Sys2Proof.Machine.execBoilOvhtAssert asserted s
  | .standbyTimeout => Sys2Proof.Machine.execStandbyTimeout s
  | .order recipe size strength payMode => Sys2Proof.Machine.execOrder recipe size strength payMode s
  | .cancel number => Sys2Proof.Machine.execCancel number s
  | .tapDeadline number => Sys2Proof.Machine.execTapDeadline number s
  | .readerPresent badge balance cardSeq => Sys2Proof.Machine.execReaderPresent badge balance cardSeq s
  | .readerRemoved badge => Sys2Proof.Machine.execReaderRemoved badge s
  | .readerWritten badge newSeq => Sys2Proof.Machine.execReaderWritten badge newSeq s
  | .readerWriteFailed badge rejected => Sys2Proof.Machine.execReaderWriteFailed badge rejected s
  | .readerRecordBad chars => Sys2Proof.Machine.execReaderRecordBad chars s
  | .readerSendStart => Sys2Proof.Machine.execReaderSendStart s
  | .writeReplyTimeout => Sys2Proof.Machine.execWriteReplyTimeout s
  | .holdWaitTimeout => Sys2Proof.Machine.execHoldWaitTimeout s
  | .holdRefreshDue => Sys2Proof.Machine.execHoldRefreshDue s
  | .holdLapse => Sys2Proof.Machine.execHoldLapse s
  | .retapDeadline => Sys2Proof.Machine.execRetapDeadline s
  | .logRead => Sys2Proof.Machine.execLogRead s
  | .logAck sequence => Sys2Proof.Machine.execLogAck sequence s
  | .cycleStart => Sys2Proof.Machine.execCycleStart s
  | .flushDeadline => Sys2Proof.Machine.execFlushDeadline s
  | .cleanHeatWaitTimeout => Sys2Proof.Machine.execCleanHeatWaitTimeout s
  | .stepTimerExpiry => Sys2Proof.Machine.execStepTimerExpiry s
  | .promptDone => Sys2Proof.Machine.execPromptDone s
  | .promptTimeout => Sys2Proof.Machine.execPromptTimeout s
  | .suspendLimitExpiry => Sys2Proof.Machine.execSuspendLimitExpiry s
  | .cleanRequest kind => Sys2Proof.Machine.execCleanRequest kind s
  | .cleanCancel => Sys2Proof.Machine.execCleanCancel s
  | .status => Sys2Proof.Machine.execStatus s
  | .readReply length check clocked => Sys2Proof.Machine.execReadReply length check clocked s
  | .noticeRead => Sys2Proof.Machine.execNoticeRead s
  | .serviceEnter => Sys2Proof.Machine.execServiceEnter s
  | .serviceLeave => Sys2Proof.Machine.execServiceLeave s
  | .serviceReset => Sys2Proof.Machine.execServiceReset s
  | .serviceDrive channel value => Sys2Proof.Machine.execServiceDrive channel value s
  | .partId => Sys2Proof.Machine.execPartId s
  | .panelTransferInvalid bytes => Sys2Proof.Machine.execPanelTransferInvalid bytes s
  | .lineLowLevel stillLow => Sys2Proof.Machine.execLineLowLevel stillLow s

end Sys2Proof.Machine
end

