-- ==== Sys2Proof/Safety.lean ====
section
/-! DEFINITION. What the statements about the machine speak of: the part of the state that no report between blocks reaches,
the settled states, and the invariants of the machine. -/

namespace Sys2Proof.Machine

/-! ### What no report between blocks reaches -/

/-- The fields that only commands and the passing of time change: none of the reports of Machine/React.lean does. -/
structure Quiet where
  timeBase : Nat
  subMs : Nat
  pins : Pins
  cfl : Cfl
  pending : List Instr
  receiver : Receiver
  intervalGuarded : Bool
  guard : Bool
  sameStationArmed : Bool
  table : List ShareEntry
  stale : Bool
  staleClearTime : Nat
  awaited : List Nat
  fullLease : Bool
  lastClaimPosted : Nat
  lastRenewalDue : Nat
  lastJoinPosted : Option Nat
  lastNeedPosted : Option Nat
  effBudget : Nat
  effCleanLimit : Nat
  heardBudgets : List Nat
  heardCleanLimits : List Nat
  heardLeases : List Nat
  lineState : LineState
  skips : Nat
  nextNumber : Nat
  reader : ReaderRx
  lastRecord : List Byte
  sendFreeAt : Nat
  tag : Nat
  lastNewSeq : Nat
  epoch : Nat
  drawerIn : Bool
  drawerLimit : Nat
  reply : Option Reply
  miso : List Byte
  mode : Mode
deriving DecidableEq, Repr

/-- The quiet part of a state. -/
def State.quiet (s : State) : Quiet :=
  { timeBase := s.timeBase, subMs := s.subMs, pins := s.pins, cfl := s.cfl, pending := s.pending,
    receiver := s.lau.receiver, intervalGuarded := s.lau.intervalGuarded, guard := s.lau.guard,
    sameStationArmed := s.lau.sameStationArmed, table := s.stu.table, stale := s.stu.stale,
    staleClearTime := s.stu.staleClearTime, awaited := s.stu.awaited, fullLease := s.stu.fullLease,
    lastClaimPosted := s.stu.lastClaimPosted, lastRenewalDue := s.stu.lastRenewalDue,
    lastJoinPosted := s.stu.lastJoinPosted, lastNeedPosted := s.stu.lastNeedPosted, effBudget := s.stu.effBudget,
    effCleanLimit := s.stu.effCleanLimit, heardBudgets := s.stu.heardBudgets,
    heardCleanLimits := s.stu.heardCleanLimits, heardLeases := s.stu.heardLeases, lineState := s.stu.lineState,
    skips := s.cnu.skips, nextNumber := s.oru.nextNumber, reader := s.pyu.reader, lastRecord := s.pyu.lastRecord,
    sendFreeAt := s.pyu.sendFreeAt, tag := s.pyu.tag, lastNewSeq := s.pyu.lastNewSeq, epoch := s.plg.epoch,
    drawerIn := s.brc.drawerIn, drawerLimit := s.brc.drawerLimit, reply := s.plk.reply, miso := s.plk.miso,
    mode := s.plk.mode }

/-- A state whose derived facts are up to date, so that none of the reports that end every action has anything to do (log 32):
the cup-pending indication (R126), the heat wish (R119), the regulator state (R117), the wait for the clean slot (R178), the need
record (R44), the standby timer (R120). -/
structure State.Settled (s : State) : Prop where
  cups : s.oru.cupPending = s.cupPendingNow
  heat : s.heatWishNow = s.brc.heatWish
  regulator : s.regulatorNow = s.brc.regulator
  slot : s.clc.state = .waitSlot → s.startConditions = true
  need : s.stu.unmetSince.isSome = s.unmet
  standby : s.brc.standbySince.isSome = s.standbyConditions

/-! ### Rows by their part in the model -/

/-- The line at the end of a complete frame: high, HUNT, a new idle interval, and the raise guard set where the frame guards (R10, R15,
R17). -/
def State.afterFrame (guards : Bool) (s : State) : State :=
  { s with
    pins := { s.pins with lineLow := false },
    lau := { s.lau with receiver := .hunt, idleTimer := 0, guardCount := 0, guard := s.lau.guard || guards,
                        intervalGuarded := s.lau.guard || guards } }

/-- The row that delivers a frame of a station (R10). -/
def deliveredRow (sender : Nat) : Frame → Instr
  | .join b => .joinDelivered sender b
  | .claim b => .claimDelivered sender b
  | .hold b => .holdDelivered sender b
  | .need b => .needDelivered sender b
  | .dispute b => .disputeDelivered sender b

/-- For a row that is a timer of the part, whether its moment has come; none for a row that is an input (log 2). -/
def State.timerDue (s : State) : Instr → Option Bool
  | .accessWon => some s.dueAccess
  | .guardEnd => some s.dueGuardEnd
  | .leaseExpiry n => some (s.dueLease n)
  | .holdDeadlineExpiry n => some (s.dueHoldDeadline n)
  | .retryTimer => some s.dueRetry
  | .renewalDue => some s.dueRenewal
  | .staleClearTime => some s.dueStaleClear
  | .needUnmetTimer => some s.dueNeed
  | .stepDownEnd => some s.dueStepDownEnd
  | .spinUpExpiry c => some (s.dueSpinUp c)
  | .lossTimeExpiry c => some (s.dueLoss c)
  | .timedRunEnd c => some (s.dueTimedEnd c)
  | .grindPowerTimeout => some s.dueGrindPower
  | .brewerMotionTimeout => some s.dueMotion
  | .prewetLimitExpiry => some (s.dueRun .prewet)
  | .soakTimerExpiry => some (s.dueRun .soak)
  | .heatWaitTimeout => some (s.dueRun .heatWait)
  | .extractionDeadline => some (s.dueRun .extract)
  | .drainTimerExpiry => some (s.dueRun .drain)
  | .ejectTimeout => some s.dueEject
  | .recoveryEjectStart => some s.recoveryConditions
  | .standbyTimeout => some s.dueStandby
  | .tapDeadline n => some (s.dueTap n)
  | .readerSendStart => some s.dueReaderSend
  | .writeReplyTimeout => some (s.duePayment .writing)
  | .holdWaitTimeout => some (s.duePayment .hold)
  | .holdRefreshDue => some s.dueRefresh
  | .holdLapse => some s.dueLapse
  | .retapDeadline => some (s.duePayment .verify)
  | .cycleStart => some s.dueCycle
  | .flushDeadline => some (s.dueStep && isFlush s.runningKind)
  | .cleanHeatWaitTimeout => some (s.dueStep && s.runningKind == some .heatWait)
  | .stepTimerExpiry => some (s.dueStep && isTimed s.runningKind)
  | .promptTimeout => some (s.dueStep && s.clc.state == .prompt)
  | .suspendLimitExpiry => some s.dueSuspend
  | _ => none

/-- A request of the panel processor: its kind code and its body bytes (R192, 12_formats.md, Panel Messages); READ_REPLY is none. -/
def panelRequest : Instr → Option (Nat × List Byte)
  | .status => some (1, [])
  | .noticeRead => some (3, [])
  | .logRead => some (4, [])
  | .logAck n => some (5, field2 n)
  | .order recipe size strength payMode => some (6, [recipe, size, strength, payMode])
  | .cancel number => some (7, [number])
  | .cleanRequest kind => some (8, [kind])
  | .cleanCancel => some (9, [])
  | .promptDone => some (10, [])
  | .serviceEnter => some (11, [])
  | .serviceLeave => some (12, [])
  | .serviceReset => some (13, [])
  | .serviceDrive channel value => some (14, [channel, value])
  | .partId => some (15, [])
  | _ => none

/-- The row of a record that the reader sent whole (R140). -/
def readerRow : ReaderRecord → Instr
  | .present badge balance cardSeq => .readerPresent badge balance cardSeq
  | .removed badge => .readerRemoved badge
  | .written badge newSeq => .readerWritten badge newSeq
  | .writeFailed badge rejected => .readerWriteFailed badge rejected

/-- The message of a request as it is clocked in: kind, body length, body, check (R192). -/
def requestMessage (kind : Nat) (body : List Byte) : List Byte :=
  let m := [byteOf kind, byteOf body.length] ++ body
  m ++ [zeroSumCheck m]

/-- Rows taken one after another. -/
def feed : List Instr → State → Host.Outcome State Fault Refusal
  | [], s => .next s
  | c :: rest, s => match exec c s with
    | .next t => feed rest t
    | o => o

/-- The characters of a frame on the line, the first with the flag bit (R3, R8). -/
def frameRows (station : Nat) (f : Frame) : List Instr :=
  match frameBytes station f with
  | [] => []
  | b :: rest => .rxCharacter b true false :: rest.map fun d => .rxCharacter d false false

/-! ### Invariants -/

/-- The number of open debited orders (R165). -/
def State.debited (s : State) : Nat := (s.oru.queue.filter fun o => o.debitSeq.isSome).length

/-- The money law: the log count plus the reserve never exceeds 64, the reserve stands for what R165 says, and the queue holds
at most 4 records with distinct numbers, none of them debited while it waits for payment (R122, R165). -/
structure Ledger (s : State) : Prop where
  room : s.plg.log.length + s.plg.reserve ≤ 64
  reserve : s.plg.reserve = 3 * flagCode s.pyu.payment.isSome + s.debited
  few : s.oru.queue.length ≤ 4
  distinct : (s.oru.queue.map Order.number).Nodup
  unpaid : ∀ o ∈ s.oru.queue, o.state = .waitPay → o.debitSeq = none

/-- The next order number is 1 to 255 and the next log sequence 0 to 65535 (R123, R164). -/
structure Numbered (s : State) : Prop where
  order : 1 ≤ s.oru.nextNumber ∧ s.oru.nextNumber ≤ 255
  log : s.plg.nextSeq < 65536

/-- The interlocks of the drive channels: GRINDER is ON only with grind permission and nothing that bars it (R59), PUMP and
BREWER are driven only with base permission (R56, R60), HEATER never exceeds the duty of the granted heat level (R57, R65) and is
0 % while BOIL_OVHT is asserted or the overheat latch is set (R58). -/
structure Interlocks (s : State) : Prop where
  grinder : s.dcu.grinder = true → s.dcu.grindPerm = true ∧ s.grinderBarred = false
  pump : 0 < s.dcu.pump → s.dcu.basePerm = true
  brewer : s.dcu.brewer ≠ .stop → s.dcu.basePerm = true
  heater : s.dcu.heater ≤ heatDuty s.conf s.dcu.granted
  overheat : s.heaterBarred = true → s.dcu.heater = 0

/-- With no configuration loaded, or in HALTED, no channel that draws power is driven and no order is held; while an image is
read or RESET_N is asserted, no configuration is loaded and the mode is START (R64, R138, R198, R202, R203). -/
structure Inert (s : State) : Prop where
  parked : s.working = false → s.dcu.heater = 0 ∧ s.dcu.pump = 0 ∧ s.dcu.grinder = false ∧ s.dcu.brewer = .stop
    ∧ s.oru.queue = [] ∧ (s.plk.mode = .start ∨ s.plk.mode = .halted)
  starting : s.cfl.reading ≠ .none ∨ s.pins.resetAsserted = true → s.cfl.loaded = none ∧ s.plk.mode = .start

end Sys2Proof.Machine
end

