-- ==== Sys2Proof/Certificates/Slice0/Obligations.lean ====
section
/-! DEFINITION. The statements for the provers, from the numbered rules of spec/ chapter by chapter. `react (u, acts)` is the state
after an action that writes `u` and makes the reports `acts`; in a settled state an action without reports leaves exactly its own
writes, so such statements give the whole next state. -/

section

open Sys2Proof Sys2Proof.Machine

/-! ### Steps and time -/

/-- A step takes the command at the front of the queue and executes it on the state with the queue's rest. -/
def Obligations.StepTakesTheFrontCommand : Prop :=
  ∀ (c : Instr) (s : State), step { s with pending := c :: s.pending } = exec c s

/-- With nothing waiting, a step passes one unit of time (the model's choice, log 1): a bit time of the Share Line while the blocks
work, 1 ms otherwise. A frame in transmission goes on by a bit, the idle timer and the guard count where they run, PUMP and GRIND
take their duties at a 5 ms boundary (log 29), the rows that join the queue are exactly the timer rows whose moment has come (log
2), and nothing else changes. -/
def Obligations.IdleStepPassesTime : Prop :=
  ∀ s : State, s.pending = [] → ∃ t : State, step s = .next t
    ∧ t.units = s.units + s.tickUnits ∧ t.subMs < 576
    ∧ t.lau = { s.lau with txBit := s.lau.txBit + flagCode (s.working && s.transmitting),
                           idleTimer := s.lau.idleTimer + flagCode (s.working && s.lineIdle),
                           guardCount := s.lau.guardCount + flagCode (s.working && s.guardRuns) }
    ∧ t.dcu = (if s.timeBase / 5 < t.timeBase / 5
        then { s.dcu with pumpPeriod := s.dcu.pump, grinderPeriod := if s.dcu.grinder then s.conf.grinderDuty else 0 }
        else s.dcu)
    ∧ t = { s with timeBase := t.timeBase, subMs := t.subMs, lau := t.lau, dcu := t.dcu, pending := t.pending }
    ∧ ∀ c : Instr, c.wf = true → (c ∈ t.pending ↔ t.timerDue c = some true)

/-- A timer row whose moment has not come changes nothing (log 2). Before the load and in HALTED the line, the reader and the flow
meter are not listened to, and a changed input line changes its level alone (R22, R69, R140, R206). -/
def Obligations.UnheardRowsChangeNothing : Prop :=
  ∀ s : State, (∀ c : Instr, s.timerDue c = some false → exec c s = .next s)
    ∧ (s.working = false →
      (∀ d f e, exec (.rxCharacter d f e) s = .next { s with pins := { s.pins with lineLow := e } }) ∧ exec .rxIdleTimeout s = .next s
      ∧ (∀ n f, exec (deliveredRow n f) s = .next s) ∧ (∀ f, exec (.sameStationFrame f) s = .next s)
      ∧ exec .collision s = .next s ∧ exec .framePosted s = .next s ∧ exec .flowEdge s = .next s
      ∧ (∀ b x q, exec (.readerPresent b x q) s = .next s) ∧ (∀ b, exec (.readerRemoved b) s = .next s)
      ∧ (∀ b q, exec (.readerWritten b q) s = .next s) ∧ (∀ b r, exec (.readerWriteFailed b r) s = .next s)
      ∧ (∀ l, exec (.readerRecordBad l) s = .next s)
      ∧ (∀ a b, exec (.encoderStep a b) s = .next { s with pins := { s.pins with encA := a, encB := b } })
      ∧ (∀ b, exec (.lidOpenAssert b) s = .next { s with pins := { s.pins with lidOpen := b } })
      ∧ (∀ b, exec (.grOvldAssert b) s = .next { s with pins := { s.pins with grOvld := b } })
      ∧ (∀ a b, exec (.brewerEndSwitch a b) s = .next { s with pins := { s.pins with brTop := a, brBot := b } })
      ∧ (∀ b, exec (.drawerInChange b) s = .next { s with pins := { s.pins with drawerIn := b } })
      ∧ (∀ b, exec (.boilColdChange b) s = .next { s with pins := { s.pins with boilCold := b } })
      ∧ (∀ b, exec (.boilOvhtAssert b) s = .next { s with pins := { s.pins with boilOvht := b } }))

/-- Every command answers a next state: none stops the block. It leaves the waiting commands as they are, and no command but a
power-on moves the time base. -/
def Obligations.EveryCommandAnswersNext : Prop :=
  ∀ (c : Instr) (s : State), ∃ t : State, exec c s = .next t ∧ t.pending = s.pending
    ∧ ((∀ b, c ≠ .supplyUp b) → (∀ b, c ≠ .resetNAssert b) → t.timeBase = s.timeBase ∧ t.subMs = s.subMs)

/-! ### Resets and the load -/

/-- What the spec states of the machine right after power-on (R6, R22, R23, R27, R29, R47, R53, R54, R64, R86, R88, R121, R138,
R142, R161, R169, R191, R193, R194, R198, R202); the invariants of the machine hold there. -/
def Obligations.ResetLeavesTheStatedValues : Prop :=
  State.reset.timeBase = 0 ∧ State.reset.plk.mode = .start ∧ State.reset.cfl.loaded = none
    ∧ State.reset.lau.queue = [] ∧ State.reset.lau.receiver = .off ∧ State.reset.lau.guard = false ∧ State.reset.lau.nextSeq = 0
    ∧ State.reset.lau.sameStationArmed = true
    ∧ (∀ n, (State.reset.entry n).live = false ∧ entryTotal (State.reset.entry n) = 0 ∧ (State.reset.entry n).held = none
        ∧ (State.reset.entry n).clean = .none ∧ (State.reset.entry n).heardSinceStale = true)
    ∧ State.reset.stu.posted = Composition.empty ∧ State.reset.stu.confirmed = Composition.empty
    ∧ State.reset.stu.pending = none ∧ State.reset.stu.deniedAt = none ∧ State.reset.stu.stepDown = none
    ∧ State.reset.stu.lineState = .joining ∧ State.reset.stu.unmetSince = none ∧ State.reset.stu.lastNeedPosted = none
    ∧ State.reset.drawn = 0 ∧ State.reset.dcu.heater = 0 ∧ State.reset.dcu.pump = 0 ∧ State.reset.dcu.grinder = false
    ∧ State.reset.dcu.brewer = .stop ∧ State.reset.dcu.valveBrew = false ∧ State.reset.dcu.valveDrain = false
    ∧ State.reset.dcu.valveRinse = false ∧ State.reset.dcu.holds = HoldMarks.clear ∧ State.reset.dcu.phase = .idle
    ∧ State.reset.dcu.granted = .off ∧ State.reset.dcu.grindPerm = false ∧ State.reset.dcu.basePerm = false
    ∧ State.reset.cnu.grind.count = 0 ∧ State.reset.cnu.flow.count = 0 ∧ State.reset.cnu.grind.run = .idle
    ∧ State.reset.cnu.flow.run = .idle ∧ State.reset.cnu.grind.capture = Capture.empty ∧ State.reset.cnu.grind.rate = 1
    ∧ State.reset.cnu.flow.rate = 1 ∧ State.reset.cnu.grind.latch = false ∧ State.reset.cnu.flow.latch = false
    ∧ State.reset.cnu.skips = 0
    ∧ State.reset.grc.state = .idle ∧ State.reset.grc.overloads = 0 ∧ State.reset.grc.fault = false
    ∧ State.reset.brc.unit = .idle ∧ State.reset.brc.pucks = 0 ∧ State.reset.brc.stuck = false ∧ State.reset.brc.overheat = false
    ∧ State.reset.brc.regulator = .off ∧ State.reset.brc.standby = false
    ∧ State.reset.oru.queue = [] ∧ State.reset.oru.nextNumber = 1 ∧ State.reset.oru.cupPending = false
    ∧ State.reset.pyu.payment = none ∧ State.reset.pyu.refunds = [] ∧ State.reset.pyu.sendQueue = [] ∧ State.reset.pyu.tag = 0
    ∧ State.reset.plg.log = [] ∧ State.reset.plg.nextSeq = 0 ∧ State.reset.plg.epoch = 0 ∧ State.reset.plg.reserve = 0
    ∧ State.reset.clc.cupsSinceRinse = 0 ∧ State.reset.clc.cupsSinceClean = 0 ∧ State.reset.clc.waterSinceDescale = 0
    ∧ State.reset.clc.residue = 0 ∧ State.reset.clc.state = .idle ∧ State.reset.clc.resume = none
    ∧ State.reset.clc.rinseRequired = false
    ∧ State.reset.plk.reply = none ∧ State.reset.plk.notices = [] ∧ State.reset.plk.noticesLost = false
    ∧ State.reset.rdyLine = false ∧ State.reset.attnLine = false
    ∧ Ledger State.reset ∧ Numbered State.reset ∧ Interlocks State.reset ∧ Inert State.reset

/-- SUPPLY_UP is a power-on; so is an assertion of RESET_N that finds the retain mark lost; a level already asserted is no
assertion; the negation begins the read of the image (R202 to R204; operands and input levels: log 3, 5). -/
def Obligations.PowerOnAndTheResetLine : Prop :=
  ∀ s : State,
    (∀ b, exec (.supplyUp b) s = .next { State.reset with
        pins := { s.pins with resetAsserted := b }, cfl := { Cfl.reset with reading := if b then .none else .first },
        pending := s.pending })
    ∧ (∀ intact, s.pins.resetAsserted = false → (s.cfl.retainMark && intact) = false →
        exec (.resetNAssert intact) s = exec (.supplyUp true) s)
    ∧ (∀ intact, s.pins.resetAsserted = true → exec (.resetNAssert intact) s = .next s)
    ∧ (s.pins.resetAsserted = true → exec .resetNNegate s = .next { s with
        pins := { s.pins with resetAsserted := false }, cfl := { s.cfl with reading := .first } })
    ∧ (s.pins.resetAsserted = false → exec .resetNNegate s = .next s)

/-- A warm reset keeps the log, the refund list, the puck count, the rates and the cleaning counters; it hands over the money that
is open as log entries of the old epoch, and everything else takes its reset value (R22, R64, R86, R121, R138, R161, R170, R191,
R203). The model's choices: the valves of a part with no configuration loaded keep their levels (log 13), the load result stays until
the next read ends (log 38), the mark that no configuration has loaded since power-on stays (log 21), and the watermark armed flag
stays until the next load (log 52). -/
def Obligations.WarmResetHandsOverTheMoney : Prop :=
  ∀ s : State, s.pins.resetAsserted = false → s.cfl.retainMark = true → Numbered s →
    ∃ (t : State) (new : List LogEntry), exec (.resetNAssert true) s = .next t
      ∧ t.plg = { log := s.plg.log ++ new, nextSeq := (s.plg.nextSeq + new.length) % 65536, epoch := (s.plg.epoch + 1) % 256,
                  reserve := 0, armed := s.plg.armed }
      ∧ new.map (fun e => (e.kind, e.badge, e.amount, e.order, e.credit)) =
          ((s.oru.queue.filter fun o => o.debitSeq.isSome).map fun o =>
            (LogKind.refundDue, o.badge.getD 0#32, o.price, some o.number, none))
          ++ (match s.pyu.payment with
              | some p => if p.state = .writing ∨ p.state = .verify
                  then [(LogKind.unresolved, p.badge, orZero (p.order.map Prod.snd), payOrder p, p.refundUsed)] else []
              | none => [])
      ∧ (∀ e ∈ new, e.time = s.seconds ∧ e.epoch = s.plg.epoch)
      ∧ t.pyu = { Pyu.reset with refunds :=
          ((s.oru.queue.filter fun o => o.debitSeq.isSome).foldl
            (fun l o => addDue l (o.badge.getD 0#32) o.price s.timeBase) s.pyu.refunds).map fun r => { r with inUse := false } }
      ∧ t.brc = { Brc.reset with
          retained := s.brc.retained || s.cupRun.any CupRun.grounds,
          pucks := s.brc.pucks + flagCode (s.cupRun.any CupRun.grounds), drawerLimit := s.brc.drawerLimit, drawerIn := s.brc.drawerIn }
      ∧ t.clc = { Clc.reset with
          cupsSinceRinse := s.clc.cupsSinceRinse, cupsSinceClean := s.clc.cupsSinceClean,
          waterSinceDescale := s.clc.waterSinceDescale, residue := s.clc.residue, rinseRequired := s.clc.rinseRequired }
      ∧ t.cnu = { Cnu.reset with grind := Counter.reset s.cnu.grind.rate, flow := Counter.reset s.cnu.flow.rate }
      ∧ t.dcu = { Dcu.reset with
          valveBrew := if s.cfl.loaded.isSome then stopValve s.conf.stopBrew s.dcu.valveBrew else s.dcu.valveBrew,
          valveDrain := if s.cfl.loaded.isSome then stopValve s.conf.stopDrain s.dcu.valveDrain else s.dcu.valveDrain,
          valveRinse := if s.cfl.loaded.isSome then stopValve s.conf.stopRinse s.dcu.valveRinse else s.dcu.valveRinse }
      ∧ t.lau = Lau.reset ∧ t.stu = Stu.reset ∧ t.grc = Grc.reset ∧ t.oru = Oru.reset ∧ t.plk = Plk.reset
      ∧ t.cfl = { s.cfl with loaded := none, reading := .none } ∧ t.pins = { s.pins with resetAsserted := true }
      ∧ t.timeBase = s.timeBase ∧ t.subMs = s.subMs

/-- A first read of the image that fails a test is made again; a second one takes the station to HALTED with its load result, and
the valves to CLOSED; a read that no reset began changes nothing. While a read is in hand C_SEL is asserted and C_MOSI carries the
read instruction 03 hex with the address 0 in two bytes. A read that passes loads the configuration and takes the station to
SERVING, JOINING and stale, the receiver in HUNT, the reader link in GAP; the BRC reads the brewer position and the drawer state
(R22, R27, R29, R41, R47, R64, R116, R121, R140, R204 to R206). The model's choices: only the first load since power-on finds a
retained puck by the end switches (log 21); a drawer that a reload finds IN resets no count and no limit (log 41). -/
def Obligations.ConfigurationReadsLoadOrHalt : Prop :=
  ∀ (image : List Byte) (s : State),
    (Inert s → imageTest image ≠ .ok →
      (s.cfl.reading = .first → s.pins.resetAsserted = false →
        exec (.configReadDone image) s = .next { s with cfl := { s.cfl with reading := .second } })
      ∧ (s.cfl.reading = .second → s.pins.resetAsserted = false → exec (.configReadDone image) s = .next { s with
          cfl := { s.cfl with reading := .none, result := imageTest image },
          plk := { s.plk with mode := .halted },
          dcu := { s.dcu with valveBrew := false, valveDrain := false, valveRinse := false, holds := HoldMarks.clear,
                              serviceGrind := false, pumpPeriod := 0 } }))
    ∧ (s.cfl.reading = .none ∨ s.pins.resetAsserted = true → exec (.configReadDone image) s = .next s)
    ∧ (imageTest image = .ok → s.cfl.reading ≠ .none → s.pins.resetAsserted = false →
      let c := cfgOf (imageAt image)
      ∃ t : State, exec (.configReadDone image) s = .next t
        ∧ t.cfl = { s.cfl with loaded := some c, result := .ok, reading := .none, coldStart := false }
        ∧ t.plk.mode = .serving ∧ t.lau.receiver = .hunt ∧ t.pyu.reader = .gap s.units
        ∧ t.stu.lineState = .joining ∧ t.stu.effBudget = c.budget ∧ t.stu.effCleanLimit = c.cleanLimit
        ∧ t.stu.lastClaimPosted = s.timeBase ∧ t.stu.stale = true ∧ t.stu.fullLease = true
        ∧ t.stu.staleClearTime = s.timeBase + c.leaseS * 1000
        ∧ t.brc.drawerLimit = max c.drawerLimit (if s.cfl.coldStart then flagCode (s.positionNow != .top) else s.brc.pucks)
        ∧ t.brc.drawerIn = s.pins.drawerIn
        ∧ t.timeBase = s.timeBase ∧ t.pins = s.pins ∧ t.plk.reply = s.plk.reply ∧ t.plg.epoch = s.plg.epoch)
    ∧ (∀ cold : Bool, let b := (loadBrewer cold s).brc
        b.position = s.positionNow ∧ b.drawerIn = s.pins.drawerIn
        ∧ b.retained = (if cold then s.positionNow != .top else s.brc.retained)
        ∧ b.pucks = (if cold then flagCode (s.positionNow != .top) else s.brc.pucks))
    ∧ (s.cSelLine = true ↔ s.cfl.reading ≠ .none ∧ s.pins.resetAsserted = false)
    ∧ (s.cSelLine = true → s.cMosiBytes = [0x03#8, 0#8, 0#8])


/-! ### The Share Line -/

/-- A break takes the receiver from HUNT to SYNC, its end opens the header window, and the window's close returns to HUNT; in any
other state of the receiver each of the three changes nothing. A low level in HUNT restarts the idle timer and the guard count and
opens a new interval; elsewhere it restarts the guard count alone, and while the receiver is off it is the line's level alone. While
the line is low neither the idle timer nor the guard count runs (R7, R8, R15, R17, R22; the level that these rows tell of: log 7). -/
def Obligations.ReceiverFollowsTheLine : Prop :=
  ∀ s : State,
    let level := fun (low : Bool) (u : State) => u.onPins fun p => { p with lineLow := low }
    (s.lau.receiver = .hunt → exec .lineBreakDetected s = .next
      (level (s.pins.lineLow || !s.transmitting) (s.onLau fun l =>
        { l with receiver := .sync false, idleTimer := 0, guardCount := 0 })))
    ∧ (s.lau.receiver ≠ .hunt → exec .lineBreakDetected s = .next s)
    ∧ (s.lau.receiver = .sync false → exec .syncBreakEnd s = .next (level false (s.onLau fun l => { l with receiver := .sync true })))
    ∧ (s.lau.receiver ≠ .sync false → exec .syncBreakEnd s = .next s)
    ∧ (s.lau.receiver = .sync true → exec .syncWindowClose s = .next (s.onLau fun l =>
        { l with receiver := .hunt, idleTimer := 0, intervalGuarded := l.guard }))
    ∧ (s.lau.receiver ≠ .sync true → exec .syncWindowClose s = .next s)
    ∧ (s.pins.lineLow = true → s.lineIdle = false ∧ s.guardRuns = false)
    ∧ ∀ still : Bool,
      (s.lau.receiver = .hunt → exec (.lineLowLevel still) s = .next (level still (s.onLau fun l =>
        { l with idleTimer := 0, guardCount := 0, intervalGuarded := l.guard })))
      ∧ (s.lau.receiver = .off → exec (.lineLowLevel still) s = .next (level still s))
      ∧ (s.lau.receiver ≠ .hunt → s.lau.receiver ≠ .off → exec (.lineLowLevel still) s = .next (level still (s.onLau fun l =>
          { l with guardCount := 0 })))

/-- What a character does while no frame ends or is damaged by it: in SYNC it is taken as a header or refused, in BODY it is the
length or a body character, in CHECK it is the first check character, in HUNT it is noise; its stop bit leaves the line high, or low
at a framing error (R2, R7 to R10; HUNT: log 6; the level of the line: log 7). -/
def Obligations.CharactersBuildTheFrame : Prop :=
  ∀ (s : State) (d : Byte), s.working = true → s.Settled →
    let line := fun (low : Bool) => s.onPins fun p => { p with lineLow := low }
    let hunt : Lau → Lau := fun l =>
      { l with receiver := .hunt, idleTimer := 0, guardCount := 0, intervalGuarded := l.guard }
    (∀ w flag err, s.lau.receiver = .sync w →
        (err = true ∨ flag = false ∨ frameKindOfCode (d.toNat / 16) = none ∨ d.toNat % 16 = 0) →
        exec (.rxCharacter d flag err) s = .next ((line err).onLau hunt))
    ∧ (∀ w kind, s.lau.receiver = .sync w → frameKindOfCode (d.toNat / 16) = some kind → d.toNat % 16 ≠ 0 →
        exec (.rxCharacter d true false) s = .next ((line false).onLau fun l =>
          { l with receiver := .body { kind := kind, sender := d.toNat % 16, length := none, body := [], check := [] } }))
    ∧ (∀ f, s.lau.receiver = .body f → f.length = none → d.toNat = 0 →
        exec (.rxCharacter d false false) s = .next ((line false).onLau fun l => { l with receiver := .check { f with length := some 0 } }))
    ∧ (∀ f, s.lau.receiver = .body f → f.length = none → 0 < d.toNat → d.toNat ≤ 20 →
        exec (.rxCharacter d false false) s = .next ((line false).onLau fun l =>
          { l with receiver := .body { f with length := some d.toNat } }))
    ∧ (∀ f n, s.lau.receiver = .body f → f.length = some n → f.body.length + 1 < n →
        exec (.rxCharacter d false false) s = .next ((line false).onLau fun l =>
          { l with receiver := .body { f with body := f.body ++ [d] } }))
    ∧ (∀ f n, s.lau.receiver = .body f → f.length = some n → n ≤ f.body.length + 1 →
        exec (.rxCharacter d false false) s = .next ((line false).onLau fun l =>
          { l with receiver := .check { f with body := f.body ++ [d] } }))
    ∧ (∀ f, s.lau.receiver = .check f → f.check = [] →
        exec (.rxCharacter d false false) s = .next ((line false).onLau fun l => { l with receiver := .check { f with check := [d] } }))
    ∧ (∀ flag err, s.lau.receiver = .hunt → exec (.rxCharacter d flag err) s = .next ((line err).onLau hunt))

/-- A synchronised frame is damaged by a framing error, a set flag, a length above 20, an idle gap, or a failed check. The receiver
returns to HUNT and the raise guard is set; a raise in GUARDED is withdrawn, with its PLAIN CLAIM, before the marking (log 55), what was
held while it was pending acts, and a wish that the raise had left out is tried again (log 9, 39); the share table is marked stale for
a lease, with every LIVE entry awaited, and a JOIN is offered unless one was posted within a lease (R9, R10, R17, R35, R37, R41). -/
def Obligations.DamagedFramesMarkTheTableStale : Prop :=
  ∀ (s : State) (f : RxFrame), s.working = true →
    (∀ (c : Instr) (low : Bool),
      ((s.lau.receiver = .body f ∨ s.lau.receiver = .check f) ∧ ((c = .rxIdleTimeout ∧ low = false)
          ∨ (∃ d flag, c = .rxCharacter d flag low ∧ (low = true ∨ flag = true))))
      ∨ (s.lau.receiver = .body f ∧ f.length = none ∧ low = false ∧ ∃ d : Byte, 20 < d.toNat ∧ c = .rxCharacter d false low)
      ∨ (s.lau.receiver = .check f ∧ f.check.length = 1 ∧ low = false
          ∧ ∃ d, rxFrame { f with check := f.check ++ [d] } = none ∧ c = .rxCharacter d false low) →
      let hunting := (s.onPins fun p => { p with lineLow := low }).onLau fun l =>
        { l with receiver := .hunt, guard := true, intervalGuarded := true, idleTimer := 0, guardCount := 0 }
      let guarded := s.stu.pending.any PendingRaise.guarded
      let w := s.wishes
      let retries := s.stu.pending.any fun p => p.heldRetry || (w.base && !p.target.base) || (w.grind && !p.target.grind)
        || (w.clean && !p.target.clean)
        || (heatCode p.target.heat < heatCode w.heat && heatCode p.target.heat ≤ heatCode s.stu.confirmed.heat)
      let withdrawn := if guarded
        then offerPlainClaim (hunting.onStu fun v => { v with
          posted := v.confirmed, pending := none, deniedAt := some s.timeBase })
        else hunting
      let marked := withdrawn.onStu fun v => { v with
        stale := true, staleClearTime := s.timeBase + s.conf.leaseS * 1000, awaited := s.peers.map Prod.fst,
        table := v.table.map fun e => if e.live then { e with heardSinceStale := false } else e }
      let joined := s.stu.lastJoinPosted.any fun posted => s.timeBase < posted + s.conf.leaseS * 1000
      exec c s = .next (react (if joined then marked else offerFrame .join marked,
        if guarded then .stuLower :: ((if s.stu.pending.any PendingRaise.heldRise then [.stuRise .any] else [])
            ++ (if retries then [.stuRetry] else []))
          else [])))
    ∧ ((s.lau.receiver = .off ∨ s.lau.receiver = .hunt ∨ ∃ w, s.lau.receiver = .sync w) → s.Settled →
        exec .rxIdleTimeout s = .next s)

/-- The second check character of a frame that passes every test ends it: a frame of another station is delivered, the own frame in
transmission is posted, and any other frame with the own number is discarded as a same-station frame, the first of which after a
reset posts LINE_TROUBLE SAME_STATION, code 3; a raise or a take still sets the guard (R10, R11, R17, R21). -/
def Obligations.CompleteFramesEndAtTheLastCheckCharacter : Prop :=
  ∀ s : State, s.working = true →
    (∀ (f : RxFrame) (d : Byte) (g : Frame), s.lau.receiver = .check f → f.check.length = 1 →
      rxFrame { f with check := f.check ++ [d] } = some g →
      (f.sender ≠ s.conf.station → exec (.rxCharacter d false false) s = exec (deliveredRow f.sender g) s)
      ∧ (f.sender = s.conf.station → s.transmitting = true → exec (.rxCharacter d false false) s = exec .framePosted s)
      ∧ (f.sender = s.conf.station → s.transmitting = false →
          exec (.rxCharacter d false false) s = exec (.sameStationFrame g) s))
    ∧ (s.Settled → ∀ f : Frame,
      (s.lau.sameStationArmed = true → exec (.sameStationFrame f) s = .next
        (postNotice .lineTrouble none 3 (frameKindCode (frameKind f)) 0
          ((s.afterFrame (guardsRaise f)).onLau fun l => { l with sameStationArmed := false })))
      ∧ (s.lau.sameStationArmed = false → exec (.sameStationFrame f) s = .next (s.afterFrame (guardsRaise f)))
      ∧ exec (deliveredRow s.conf.station f) s = exec (.sameStationFrame f) s)

/-- The slot that wins access is the oldest whose gap the idle timer has reached, while the receiver hunts and no own frame is on
the line. A gap is 6 bt for a DISPUTE, 48 for another kind and 208 in a guarded interval, plus 2 for each station number and 12 for
each failed attempt (R15, R16). -/
def Obligations.AccessFollowsTheGaps : Prop :=
  ∀ (s : State) (k : Nat),
    (s.winner = some k ↔ s.lau.receiver = .hunt ∧ (∀ t ∈ s.lau.queue, t.sent = none)
      ∧ (∃ t, s.lau.queue[k]? = some t ∧ s.gap t ≤ s.lau.idleTimer)
      ∧ ∀ j, j < k → ∀ t, s.lau.queue[j]? = some t → s.lau.idleTimer < s.gap t)
    ∧ ∀ t : TxSlot, s.gap t = 2 * s.conf.station + 12 * t.attempts
        + (if offerKind t.offer = .dispute then 6 else if s.lau.intervalGuarded then 208 else 48)

/-- At access the originator supplies the content, and the break begins with the next frame sequence: the limits for a JOIN, the
units short for a NEED, the named pair for a DISPUTE, the badge for a HOLD, the posted composition for a CLAIM that may not raise
(log 8, 10). It withdraws a frame that has nothing left to say: a NEED with no units short, a DISPUTE under the stale mark, a HOLD
TAKE whose payment is over or whose badge a peer holds, which ends a payment whose hold is QUEUED; its slot leaves, no sequence is
used, and the rest of the queue is examined (R6, R16, R31, R38, R44, R147, R148). -/
def Obligations.AccessSendsOrWithdraws : Prop :=
  ∀ (s : State) (k : Nat) (t : TxSlot), s.dueAccess = true → s.winner = some k → s.lau.queue[k]? = some t → s.Settled →
    let withdrawn := s.onLau fun l => { l with queue := l.queue.eraseIdx k }
    let sends := fun (f : Frame) => s.onLau fun l =>
      { l with queue := l.queue.modify k (fun t => { t with sent := some { seq := l.nextSeq, frame := f } }),
               nextSeq := (l.nextSeq + 1) % 256, txBit := 0, idleTimer := 0, guardCount := 0 }
    (t.offer = .join → exec .accessWon s = .next (sends (.join
        { budget := s.conf.budget, cleanLimit := s.conf.cleanLimit, lease := s.conf.leaseS })))
    ∧ (∀ m, t.offer = .claim m →
        (m = false ∨ s.stu.stale = true ∨ s.stu.pending.isSome = true ∨ s.stu.lineState = .isolated) →
        exec .accessWon s = .next (sends (.claim (claimBody s s.stu.posted false))))
    ∧ (t.offer = .need → 1 ≤ s.unitsShort → exec .accessWon s = .next (sends (.need
        { seq := s.lau.nextSeq, units := min 255 s.unitsShort, holdTime := s.conf.needHoldS })))
    ∧ (∀ a q r, t.offer = .dispute a q r → s.stu.stale = false → exec .accessWon s = .next (sends (.dispute
        { seq := s.lau.nextSeq, target := a, targetSeq := q, reason := r })))
    ∧ (∀ b g p, t.offer = .holdTake b g → s.pyu.payment = some p → p.tag = g → s.peerHolds b 0 = false →
        exec .accessWon s = .next (sends (.hold
          { seq := s.lau.nextSeq, take := true, badge := b, lease := s.conf.holdLeaseS })))
    ∧ (∀ b, t.offer = .holdFree b → exec .accessWon s = .next (sends (.hold
        { seq := s.lau.nextSeq, take := false, badge := b, lease := s.conf.holdLeaseS })))
    ∧ (t.offer = .need → s.unitsShort = 0 → exec .accessWon s = .next (react (withdrawn, [.lauAccess])))
    ∧ (∀ a q r, t.offer = .dispute a q r → s.stu.stale = true → exec .accessWon s = .next (react (withdrawn, [.lauAccess])))
    ∧ (∀ b g, t.offer = .holdTake b g → (s.pyu.payment.any fun p => p.tag == g) = false →
        exec .accessWon s = .next (react (withdrawn, [.lauAccess])))
    ∧ (∀ b g p, t.offer = .holdTake b g → s.pyu.payment = some p → p.tag = g → s.peerHolds b 0 = true →
        exec .accessWon s = .next (react (withdrawn, (if p.hold = .queued then [.pyuEndUnpaid .badgeBusy] else []) ++ [.lauAccess])))

/-- At access a CLAIM is composed against the table as it stands: a target that raises goes out RAISE as a pending raise, another
becomes the posted composition; what the target holds lower is lowered at once and reported before the frame is sent; the denied-at
time tells whether a wish stays unmet (R31, R32). -/
def Obligations.AccessComposesTheClaim : Prop :=
  ∀ (s : State) (k : Nat) (t : TxSlot), s.dueAccess = true → s.winner = some k → s.lau.queue[k]? = some t →
    t.offer = .claim true → s.stu.stale = false → s.stu.pending = none → s.stu.lineState ≠ .isolated →
    let target := s.composed
    let raise := raisesOver target s.stu.posted
    let confirmed := compMeet s.stu.confirmed target
    let u := s.onStu fun v => { v with
      deniedAt := if raisesOver s.wishes target then some s.timeBase else none,
      confirmed := confirmed,
      posted := if raise then compMeet v.posted target else target,
      pending := if raise
        then some { target := target, seq := s.lau.nextSeq, guarded := false, heldRise := false, heldRetry := false } else none }
    exec .accessWon s = .next (react
      (u.onLau fun l =>
        { l with queue := l.queue.modify k fun t =>
                   { t with sent := some { seq := l.nextSeq, frame := .claim (claimBody s target raise) } },
                 nextSeq := (l.nextSeq + 1) % 256, txBit := 0, idleTimer := 0, guardCount := 0 },
       if confirmed = s.stu.confirmed then [] else [.claimReport]))

/-- A collision ends the attempt: the slot stays with one attempt more and the latest content, a QUEUED raise is discarded, and the
eighth attempt gives the frame up with LINE_TROUBLE GAVE_UP, code 2; the line is low where this station sent high (R13, R18, R19, R33,
R147; content stored meanwhile: log 12; the level of the line: log 7; a wish fallen under a discarded raise: log 54). -/
def Obligations.CollisionsRetryEightTimes : Prop :=
  ∀ s : State, s.working = true → s.Settled →
    let line := s.onPins fun p => { p with lineLow := !s.slDeLine }
    let q := s.lau.queue.filterMap collidedSlot
    (∀ t, t.sent = none → collidedSlot t = some t)
    ∧ (∀ t, t.sent ≠ none → t.attempts < 7 → collidedSlot t = some
        { offer := match t.again with | some a => mergeOffer t.offer a | none => t.offer,
          attempts := t.attempts + 1, again := none, sent := none })
    ∧ (∀ t, t.sent ≠ none → 7 ≤ t.attempts → collidedSlot t = t.again.map newSlot)
    ∧ (s.ownFrame = none → exec .collision s = .next s)
    ∧ (∀ o f, s.ownFrame = some (o, f) → s.eighthAttempt = false → exec .collision s = .next
        ((line.onLau fun l => { l with queue := q, intervalGuarded := l.guard }).onStu fun v => { v with
          pending := v.pending.filter fun p => !(offerKind o == .claim && p.seq == f.seq && !p.guarded) }))
    ∧ (∀ o f, s.ownFrame = some (o, f) → s.eighthAttempt = true → exec .collision s = .next (react
        ((line.onLau fun l => { l with queue := q, intervalGuarded := l.guard }).onStu fun v => { v with
          pending := v.pending.filter fun p => !(offerKind o == .claim && p.seq == f.seq && !p.guarded),
          deniedAt := if offerKind o == .claim && (v.pending.any fun p => p.seq == f.seq && !p.guarded)
            then some s.timeBase else v.deniedAt },
         (match o with | .holdTake _ tag => [.pyuTakeGivenUp tag] | _ => [])
           ++ [.post .lineTrouble none 2 (frameKindCode (offerKind o)) 0])))

/-- The posting of an own frame: its slot leaves or goes to the tail with the stored content, the guard is set for a raise or a take,
and its originator learns of it; the posting of any frame while ISOLATED brings the station back ONLINE, stale, with REJOINED (R13,
R21, R33, R41, R44, R47, R50, R147). -/
def Obligations.PostedFramesSettleTheirSlot : Prop :=
  ∀ s : State, s.working = true →
    (s.ownFrame = none → s.Settled → exec .framePosted s = .next s)
    ∧ ∀ o f, s.ownFrame = some (o, f) →
      let u := (s.onLau fun l => { l with
          queue := l.queue.filter (fun t => t.sent.isNone)
            ++ l.queue.filterMap fun t => if t.sent.isSome then t.again.map newSlot else none }).afterFrame (guardsRaise f.frame)
      let v := match o with
        | .join => u.onStu fun w => { w with lastJoinPosted := some s.timeBase }
        | .need => u.onStu fun w => { w with lastNeedPosted := some s.timeBase }
        | .claim _ => u.onStu fun w => { w with
            lastClaimPosted := s.timeBase, lineState := if w.lineState = .joining then .online else w.lineState,
            posted := match w.pending with
              | some p => if p.seq = f.seq ∧ p.guarded = false then p.target else w.posted
              | none => w.posted,
            pending := w.pending.map fun p => if p.seq = f.seq ∧ p.guarded = false then { p with guarded := true } else p }
        | _ => u
      let told := match o with
        | .claim _ => if s.stu.lineState = .joining then [Act.brcHeat] else []
        | .holdTake _ tag => [.pyuTakePosted tag f.seq]
        | _ => []
      (s.stu.lineState ≠ .isolated → exec .framePosted s = .next (react (v, told)))
      ∧ (s.stu.lineState = .isolated → exec .framePosted s = .next (react
          (staleMark true (v.onStu fun w => { w with lineState := .online }), told ++ [.post .rejoined none 0 0 0, .brcHeat])))

/-- At 160 bt the raise guard ends: the flag clears, unsent DISPUTEs leave the queue, a GUARDED raise is confirmed and its wishers
are told, and the Payment Unit is told. There a GUARDED hold settles, its refresh counting from the last TAKE, with the refresh that a
JOIN asked for; under the stale mark its settlement is deferred. A settled hold in P_HOLD is written: its WRITE takes the place kept
for one in the send queue and P_WRITING begins, with no deadline yet; a lapsed one ends HOLD_LOST, and one that a peer holds waits
(R14, R17, R34, R149, R151, R152). The model's choices: the join-refresh mark clears at the settlement (log 49), an unsent WRITE is
replaced (log 19), and no deadline runs until the WRITE begins (log 27). -/
def Obligations.GuardEndSettlesTheRaise : Prop :=
  (∀ s : State, (s.pyu.payment = none → perform .pyuGuardEnd s = (s, []) ∧ perform .pyuTryWrite s = (s, []))
    ∧ ∀ p, s.pyu.payment = some p →
      let holding := fun (q : Payment) => s.onPyu fun u => { u with payment := some q }
      let u := holding { p with hold := .settled, joinRefresh := false, refreshBase := p.lastTake }
      (p.hold ≠ .guarded → perform .pyuGuardEnd s = (s, []))
      ∧ (p.hold = .guarded → s.stu.stale = true → perform .pyuGuardEnd s = (holding { p with deferredSettle := true }, []))
      ∧ (p.hold = .guarded → s.stu.stale = false → perform .pyuGuardEnd s =
          (if p.joinRefresh = true ∧ s.takeQueued p.tag = false then offerFrame (.holdTake p.badge p.tag) u else u, [.pyuTryWrite]))
      ∧ (p.state ≠ .hold ∨ p.hold ≠ .settled → perform .pyuTryWrite s = (s, []))
      ∧ (p.state = .hold → p.hold = .settled →
          (p.lapsed = true → perform .pyuTryWrite s = perform (.pyuEndUnpaid .holdLost) s)
          ∧ (p.lapsed = false → s.peerHolds p.badge 0 = true → perform .pyuTryWrite s = (s, []))
          ∧ (p.lapsed = false → s.peerHolds p.badge 0 = false → perform .pyuTryWrite s = (s.onPyu fun v => { v with
              payment := some { p with state := .writing, deadline := none },
              sendQueue := v.sendQueue.filter (fun r => !isWrite r) ++ [.write p.badge p.expectedSeq p.newBalance] }, []))))
  ∧ ∀ s : State, s.dueGuardEnd = true →
    let u := s.onLau fun l => { l with
      guard := false, guardCount := 0, queue := l.queue.filter fun t => offerKind t.offer != .dispute || t.sent.isSome }
    (∀ p, s.stu.pending = some p → p.guarded = true → exec .guardEnd s = .next (react
      (u.onStu fun v => { v with confirmed := p.target, pending := none },
       [.claimReport]
         ++ (if p.target.grind && !s.stu.confirmed.grind && s.stu.grindWish then [.grcGranted] else [])
         ++ (if p.target.clean && !s.stu.confirmed.clean && s.stu.cleanWish then [.clcGranted] else [])
         ++ [.stuLower, .stuRise .any, .stuRetry, .pyuGuardEnd])))
    ∧ ((s.stu.pending.any fun p => p.guarded) = false → exec .guardEnd s = .next (react (u, [.pyuGuardEnd])))

/-! ### The share table and the own claim -/

/-- A composition counts its parts as R28 gives them, within the ranges that a loaded configuration keeps. -/
def Obligations.CompositionsCountTheirParts : Prop :=
  (∀ (c : Cfg) (k : Composition),
      compTotal c k = heatUnits c k.heat + otherUnits c k
      ∧ otherUnits c k = (if k.base then c.baseUnits else 0) + (if k.grind then c.motorUnits else 0)
      ∧ compTotal c { k with clean := !k.clean } = compTotal c k
      ∧ heatUnits c .off = 0
      ∧ (c.heaterRated * c.keepPercent ≤ 100 * heatUnits c .keep ∧ 100 * heatUnits c .keep < c.heaterRated * c.keepPercent + 100)
      ∧ (c.heaterRated ≤ 2 * heatUnits c .half ∧ 2 * heatUnits c .half < c.heaterRated + 2)
      ∧ heatUnits c .full = c.heaterRated)
  ∧ (∀ a b : Composition, raisesOver a b = true ↔ (a.base = true ∧ b.base = false) ∨ (a.grind = true ∧ b.grind = false)
      ∨ (a.clean = true ∧ b.clean = false) ∨ heatCode b.heat < heatCode a.heat)
  ∧ (∃ a b : Composition, raisesOver a b = true ∧ raisesOver b a = true)
  ∧ (∀ s : State, s.cleanCount = (s.peers.filter fun p => p.2.clean == .cleaning).length + (if s.stu.posted.clean then 1 else 0))
  ∧ (∀ image, imageTest image = .ok →
      1 ≤ (cfgOf (imageAt image)).baseUnits ∧ (cfgOf (imageAt image)).baseUnits ≤ 8
      ∧ 2 ≤ (cfgOf (imageAt image)).motorUnits ∧ (cfgOf (imageAt image)).motorUnits ≤ 16)

/-- A CLAIM delivered from another station replaces what its entry claims, takes the station out of the awaited set, clears the stale
mark with the last one awaited, is tested for a dispute if it is a raise, and is a retry point if it lowers the total (R10, R17, R24,
R38, R43, R49). -/
def Obligations.ClaimUpdatesItsEntry : Prop :=
  ∀ (s : State) (n : Nat) (b : ClaimBody), s.working = true → n ≠ s.conf.station →
    let old := s.entry n
    let rest := s.stu.awaited.filter (· != n)
    let clears := s.stu.stale && s.stu.awaited.contains n && rest.isEmpty && !s.stu.fullLease
    let u := (setEntry n { old with live := true, leaseDeadline := s.timeBase + b.lease * 1000, lastSeq := b.seq, heat := b.heat,
                                    heatUnits := b.heatUnits, otherUnits := b.otherUnits, clean := b.clean,
                                    heardSinceStale := true } (s.afterFrame b.raise)).onStu fun v =>
      { v with awaited := rest, stale := v.stale && !clears, fullLease := v.fullLease && !clears }
    let disputed := if b.raise = false ∨ u.stu.stale = true ∨ u.stu.lineState = .isolated then u
      else if u.stu.effBudget < u.lineTotal then offerFrame (.dispute n b.seq .budget) u
      else if b.clean = .cleaning ∧ old.clean ≠ .cleaning ∧ u.stu.effCleanLimit < u.cleanCount
        then offerFrame (.dispute n b.seq .cleanLimit) u
      else u
    exec (.claimDelivered n b) s = .next (react (disputed,
      (if clears then [.pyuStaleCleared, .stuRetry] else [])
        ++ (if b.heatUnits + b.otherUnits < entryTotal old then [.stuRetry] else [])))

/-- A HOLD delivered from another station: a TAKE sets the held badge, makes an ABSENT entry LIVE and is disputed where the badge is
taken here or held elsewhere; a FREE clears the badge it names and no other (R10, R17, R25, R153). -/
def Obligations.HoldUpdatesTheHeldBadge : Prop :=
  ∀ (s : State) (n : Nat) (b : HoldBody), s.working = true → s.Settled → n ≠ s.conf.station →
    let old := { s.entry n with lastSeq := b.seq }
    let held : HeldBadge := { badge := b.badge, seq := b.seq, deadline := s.timeBase + b.lease * 1000 }
    let entry := if old.live then { old with held := some held }
      else { old with live := true, heat := .off, heatUnits := 0, otherUnits := 0, clean := .none,
                      leaseDeadline := s.timeBase + s.conf.leaseS * 1000, held := some held }
    let u := setEntry n entry (s.afterFrame true)
    (b.take = true → exec (.holdDelivered n b) s = .next
      (if s.stu.stale = false ∧ ((s.pyu.payment.any fun p => p.badge == b.badge && p.taken) = true ∨ u.peerHolds b.badge n = true)
        then offerFrame (.dispute n b.seq .badge) u else u))
    ∧ (b.take = false → (old.held.map HeldBadge.badge) = some b.badge → exec (.holdDelivered n b) s = .next (react
        (setEntry n { old with held := none } (s.afterFrame false), [.pyuHoldCleared b.badge])))
    ∧ (b.take = false → (old.held.map HeldBadge.badge) ≠ some b.badge →
        exec (.holdDelivered n b) s = .next (setEntry n old (s.afterFrame false)))

/-- A JOIN delivered from another station lowers the effective limits, posts CONFIG_MISMATCH once for each value that differs from
the own one, and is answered with a PLAIN CLAIM; without a payment in flight nothing else happens (R10, R27; the order of several
notices: the model's choice, log 67). -/
def Obligations.JoinLowersTheLimits : Prop :=
  ∀ (s : State) (n : Nat) (b : JoinBody), s.working = true → s.Settled → n ≠ s.conf.station →
    let u := (s.afterFrame false).onStu fun v => { v with
      effBudget := min v.effBudget b.budget, effCleanLimit := min v.effCleanLimit b.cleanLimit }
    let u1 := if b.budget = s.conf.budget ∨ b.budget ∈ s.stu.heardBudgets then u
      else postNotice .configMismatch none 1 b.budget 0 (u.onStu fun v => { v with heardBudgets := v.heardBudgets ++ [b.budget] })
    let u2 := if b.cleanLimit = s.conf.cleanLimit ∨ b.cleanLimit ∈ s.stu.heardCleanLimits then u1
      else postNotice .configMismatch none 2 b.cleanLimit 0
        (u1.onStu fun v => { v with heardCleanLimits := v.heardCleanLimits ++ [b.cleanLimit] })
    let u3 := if b.lease = s.conf.leaseS ∨ b.lease ∈ s.stu.heardLeases then u2
      else postNotice .configMismatch none 3 b.lease 0 (u2.onStu fun v => { v with heardLeases := v.heardLeases ++ [b.lease] })
    (s.pyu.payment = none → exec (.joinDelivered n b) s = .next (offerPlainClaim u3))
    ∧ exec (.joinDelivered n b) s = .next (react (offerPlainClaim u3, [.pyuJoin]))

/-- A NEED delivered from another station steps this station down if it has no cup pending, claims heat and is in no
non-interruptible stretch: the heat wish counts as OFF until the deadline, and the BRC and the CLC are told; otherwise the NEED leaves
its sequence alone (R10, R39, R45). -/
def Obligations.NeedStepsTheStationDown : Prop :=
  ∀ (s : State) (n : Nat) (b : NeedBody), s.working = true → s.Settled → n ≠ s.conf.station →
    let u := setEntry n { s.entry n with lastSeq := b.seq } (s.afterFrame false)
    ((s.oru.cupPending = true ∨ s.stu.posted.heat = .off ∨ s.inStretch = true) →
      exec (.needDelivered n b) s = .next u)
    ∧ (s.oru.cupPending = false → s.stu.posted.heat ≠ .off → s.inStretch = false →
      exec (.needDelivered n b) s = .next (react
        ((u.onStu fun v => { v with stepDown := some (max (v.stepDown.getD 0) (s.timeBase + b.holdTime * 1000)) }).onBrc fun v =>
          { v with steppedDown := true },
         [.stuLower, .brcRegulator, .clcStepDown])))

/-- A DISPUTE delivered from another station removes a queued one of the same pair. Where it names this station's pending raise the
raise is withdrawn: the posted composition reverts, the denied-at time is set, a PLAIN CLAIM is offered, a rise or a retry point held
meanwhile acts, and a wish that the raise had left out is tried again (log 9, 39). Another sequence of this station goes to the Payment
Unit, and a dispute of another station leaves all else as it is (R10, R14, R30, R35, R37, R39, R150). -/
def Obligations.DisputeWithdrawsTheRaise : Prop :=
  ∀ (s : State) (n : Nat) (b : DisputeBody), s.working = true → s.Settled → n ≠ s.conf.station →
    let u := (setEntry n { s.entry n with lastSeq := b.seq } (s.afterFrame false)).onLau fun l => { l with
      queue := l.queue.filter fun t => match t.offer with
        | .dispute a q _ => !(a == b.target && q == b.targetSeq && t.sent.isNone)
        | _ => true }
    let names := b.target = s.conf.station
    let pending := s.stu.pending.any fun p => p.guarded && p.seq == b.targetSeq
    let w := s.wishes
    let retries := s.stu.pending.any fun p => p.heldRetry || (w.base && !p.target.base) || (w.grind && !p.target.grind)
      || (w.clean && !p.target.clean)
      || (heatCode p.target.heat < heatCode w.heat && heatCode p.target.heat ≤ heatCode s.stu.confirmed.heat)
    (names → pending = true → exec (.disputeDelivered n b) s = .next (react
      (offerPlainClaim (u.onStu fun v => { v with posted := v.confirmed, pending := none, deniedAt := some s.timeBase }),
       .stuLower :: ((if s.stu.pending.any PendingRaise.heldRise then [.stuRise .any] else [])
         ++ (if retries then [.stuRetry] else [])))))
    ∧ (names → pending = false → exec (.disputeDelivered n b) s = .next (react (u, [.pyuDispute b.targetSeq])))
    ∧ (names → pending = false → (s.pyu.payment.any fun p => p.hold == .guarded && p.holdSeq == some b.targetSeq) = false →
        exec (.disputeDelivered n b) s = .next u)
    ∧ (¬ names → exec (.disputeDelivered n b) s = .next u)

/-- The due times of the Share Table. At its lease deadline an entry becomes ABSENT, claims nothing and holds no badge, leaves the
awaited set, and with a total above 0 makes a retry point; at its hold deadline it loses the held badge alone. A retry point offers
a CLAIM if the target would raise, and otherwise notes the denial afresh; one that finds a raise pending is held until that raise is
over; an unmet wish with an order waiting offers a NEED; the stale mark clears; the end of a step-down brings the heat wish back
(R26, R37, R43, R44, R46). The model's choices: an entry that leaves the awaited set by expiry never clears the stale mark (log 11),
the heat wish that a step-down gives back offers a CLAIM (log 40), and a retry point is held while a raise is pending (log 9). -/
def Obligations.ShareTimersAct : Prop :=
  ∀ s : State,
    (∀ n : Nat,
      (s.dueLease n = true →
        let old := s.entry n
        exec (.leaseExpiry n) s = .next (react
          ((setEntry n { old with live := false, heat := .off, heatUnits := 0, otherUnits := 0, clean := .none, held := none } s).onStu
            fun v => { v with awaited := v.awaited.filter (· != n) },
           (match old.held with | some h => [Act.pyuHoldCleared h.badge] | none => [])
             ++ (if 0 < entryTotal old then [.stuRetry] else []))))
      ∧ (s.dueHoldDeadline n = true → ∀ h, (s.entry n).held = some h →
        exec (.holdDeadlineExpiry n) s = .next (react
          (setEntry n { s.entry n with held := none } s, [.pyuHoldCleared h.badge]))))
    ∧ (s.Settled →
      (s.dueRetry = true → s.stu.pending.isSome = true → exec .retryTimer s = .next
        (s.onStu fun v => { v with pending := v.pending.map fun p => { p with heldRetry := true } }))
      ∧ (s.dueRetry = true → s.stu.pending = none → exec .retryTimer s = .next
        (if s.stu.stale = false ∧ raisesOver s.composed s.stu.posted = true then offerFrame (.claim true) s
          else s.onStu fun v => { v with deniedAt := some s.timeBase }))
      ∧ (s.dueNeed = true → exec .needUnmetTimer s = .next (offerFrame .need s))
      ∧ (s.dueStaleClear = true → exec .staleClearTime s = .next (react
          (s.onStu fun v => { v with stale := false, fullLease := false, awaited := [] }, [.pyuStaleCleared, .stuRetry])))
      ∧ (s.dueStepDownEnd = true → exec .stepDownEnd s = .next (react
          ((s.onStu fun v => { v with stepDown := none }).onBrc fun v => { v with steppedDown := false },
           [.brcRegulator, .stuRise .heat, .stuRetry]))))

/-- A renewal due offers a PLAIN CLAIM. Where no CLAIM has been posted for a lease it takes the station ISOLATED: the raise is
discarded, the claim is lowered to the solo allowance, and the blocks are told what they lost (R40, R47, R48; a wish fallen under a
discarded raise: log 54). -/
def Obligations.RenewalsTestForIsolation : Prop :=
  ∀ s : State, s.dueRenewal = true → s.Settled →
    let u := offerFrame (.claim false) (s.onStu fun v => { v with lastRenewalDue := s.timeBase })
    let k := soloLowered s.conf s.stu.confirmed
    ((s.stu.lineState = .isolated ∨ s.timeBase < s.stu.lastClaimPosted + s.conf.leaseS * 1000) →
      exec .renewalDue s = .next u)
    ∧ (s.stu.lineState ≠ .isolated → s.stu.lastClaimPosted + s.conf.leaseS * 1000 ≤ s.timeBase →
      exec .renewalDue s = .next (react
        (offerFrame (.claim false) (u.onStu fun v => { v with
            lineState := .isolated, pending := none, confirmed := k, posted := k }),
         (if k = s.stu.confirmed then [] else [.claimReport])
           ++ (if s.stu.confirmed.grind && !k.grind then [.grcWithdrawn] else [])
           ++ (if s.stu.confirmed.base && !k.base then [.brcLineLost, .clcLineLost] else [])
           ++ [.post .isolated none 0 0 0])))
    ∧ (compTotal s.conf k ≤ s.conf.soloAllowance)

/-! ### Drive channels -/

/-- The drawn units stay within the permissions in force, and a report of the claim brings them within the confirmed composition in
the same action (R53, R59, R60, R65, R68). -/
def Obligations.DrawnUnitsStayWithinTheClaim : Prop :=
  ∀ s : State, Interlocks s →
    s.drawn ≤ heatUnits s.conf s.dcu.granted + (if s.dcu.basePerm then s.conf.baseUnits else 0)
        + (if s.dcu.grindPerm then s.conf.motorUnits else 0)
    ∧ (perform .claimReport s).1.dcu.granted = s.stu.confirmed.heat
    ∧ (perform .claimReport s).1.dcu.basePerm = s.stu.confirmed.base
    ∧ (perform .claimReport s).1.dcu.grindPerm = s.stu.confirmed.grind
    ∧ (perform .claimReport s).1.drawn ≤ compTotal s.conf s.stu.confirmed

/-- A stop event takes every channel to its stop level, clears the hold marks and the service grind mark, and is reported to both
counters, the BRC, the GRC and the CLC (the order: log 43); granted level, permissions and phase stay. One that comes while another is
being reported is taken after it. A cup run takes the cause of the stop event unless it has a reason, and proceeds once the event is
reported, from B_GRIND once its grind is over. A step with a move in hand reports MOVE_STOPPED and makes no further stroke; the same at
the brew-unit stop by which STEP_DOWN cuts a granted step outside a stretch and suspends its cycle. A set of a drive phase loads its row
into the channels whose hold mark is clear, PUMP only with base permission; HEATER, GRINDER and BREWER stay; before the load and in
HALTED no phase is set (R56, R62 to R64, R79, R104, R108, R113, R185, R186). -/
def Obligations.StopEventsAndPhaseSets : Prop :=
  ∀ s : State,
    (∀ cause : Reason, perform (.stopEvent cause) s =
    ({ s with
        dcu := { s.dcu with
          heater := 0, pump := 0, pumpPeriod := 0, grinder := false, brewer := .stop,
          grinderPeriod := if s.dcu.grinder then 0 else s.dcu.grinderPeriod,
          valveBrew := stopValve s.conf.stopBrew s.dcu.valveBrew, valveDrain := stopValve s.conf.stopDrain s.dcu.valveDrain,
          valveRinse := stopValve s.conf.stopRinse s.dcu.valveRinse, holds := HoldMarks.clear, serviceGrind := false },
        cnu := { s.cnu with
          grind := if s.dcu.grinder then { s.cnu.grind with monitor := .off } else s.cnu.grind,
          flow := if s.dcu.pump = 0 then s.cnu.flow else { s.cnu.flow with monitor := .off } } },
     [.cnuStop .flow, .brcStop cause, .grcStop, .cnuStop .grind, .clcStop cause, .brcStopOver, .stopOver]))
    ∧ (∀ (cause : Reason) (before after : List Act), .stopOver ∉ before → (∀ other, after.head? ≠ some (.stopEvent other)) →
        nextActs (.stopEvent cause) (before ++ .stopOver :: after) s = (before ++ .stopOver :: .stopEvent cause :: after, s))
    ∧ (∀ r cause, s.brc.unit = .cup → s.brc.run = some r → ∃ u : State, perform (.brcStop cause) s = (u, [.brcHeat])
        ∧ u.cupRun = some { r with
            abort := some (r.abort.getD cause), stop := .reporting, deadline := none, waiting := false })
    ∧ (∀ r, s.cupRun = some r → r.stop = .reporting → perform .brcStopOver s =
        (s.onBrc fun b => { b with run := some { r with stop := .made } },
         if r.state = .grind ∧ r.grindOver = false then [] else [.brcProceed]))
    ∧ perform .clcMoveStopped s = (s, [])
    ∧ (∀ cause, s.brc.unit = .step → ∃ u : State,
        perform (.brcStop cause) s = (u, if s.brc.move.isSome then [.clcMoveStopped] else [])
        ∧ u.brc.move = none ∧ u.brc.step = s.brc.step.map fun k => { k with strokesLeft := 0 })
    ∧ (∀ c, s.clc.state = .run ∨ s.clc.state = .prompt → s.clc.cycle = some c → c.unitHeld = true → c.stretch = false →
        ∃ u : State, perform .clcStepDown s =
          (u, [.cnuStop .flow] ++ (if s.brc.move.isSome then [.clcMoveStopped] else []) ++ [.brcStepEnd, .stuCleanWish false])
        ∧ u.brc.move = none ∧ u.brc.step = (s.brc.step.map fun k => { k with strokesLeft := 0 })
        ∧ u.dcu = { s.dcu with
            pump := 0, pumpPeriod := 0, brewer := .stop, valveBrew := stopValve s.conf.stopBrew s.dcu.valveBrew,
            valveDrain := stopValve s.conf.stopDrain s.dcu.valveDrain, valveRinse := stopValve s.conf.stopRinse s.dcu.valveRinse,
            holds := { HoldMarks.clear with heater := s.dcu.holds.heater, grinder := s.dcu.holds.grinder } }
        ∧ u.clc = { s.clc with
            state := .suspended, cycle := none, resume := some { kind := c.kind, step := c.step, time := s.timeBase } })
    ∧ ∀ p : Phase,
      (s.working = false → phaseSet p s = s)
      ∧ (s.working = true →
          let row := s.phaseRow p
          let t := phaseSet p s
          t.dcu.phase = p
          ∧ t.dcu.pump = (if s.dcu.holds.pump then s.dcu.pump else if s.dcu.basePerm then row.pump else 0)
          ∧ t.dcu.valveBrew = (if s.dcu.holds.valveBrew then s.dcu.valveBrew else row.valveBrew)
          ∧ t.dcu.valveDrain = (if s.dcu.holds.valveDrain then s.dcu.valveDrain else row.valveDrain)
          ∧ t.dcu.valveRinse = (if s.dcu.holds.valveRinse then s.dcu.valveRinse else row.valveRinse)
          ∧ t.dcu.heater = s.dcu.heater ∧ t.dcu.grinder = s.dcu.grinder ∧ t.dcu.brewer = s.dcu.brewer
          ∧ t.dcu.holds = s.dcu.holds
          ∧ t = { s with dcu := t.dcu, cnu := { s.cnu with flow := { s.cnu.flow with monitor := t.cnu.flow.monitor } } })

/-- SERVICE_DRIVE by channel: a refusal changes nothing but the reply slot. HEATER takes the value limited to the granted duty, 0 %
under the overheat protection; PUMP above 0 % needs base permission; a valve takes the value; each sets its hold mark. GRINDER ON
sets the marks and raises the service grind wish unless a line or latch bars it, OFF clears the mark and lowers the wish. BREWER UP
and DOWN are moves that need base permission: a move in hand in the same direction goes on with its deadline (the model's choice,
log 64), one in the other direction ends first, a move toward the position held arrives at once, and none starts under the
brewer-stuck latch (answered OK, log 57); STOP ends a move (R58 to R60, R65, R66, R106, R196; the reply: log 20). -/
def Obligations.ServiceDriveActsOnOneChannel : Prop :=
  ∀ (s : State) (channel value : Byte), s.pins.resetAsserted = false → s.Settled →
    let c := channel.toNat
    let v := value.toNat
    let answers := fun (r : Result) (t : State) (body : List Byte) =>
      exec (.serviceDrive channel value) s = .next (placeReply 14#8 5 { state := t, result := r, body := body, notices := 0 })
    let drives := fun (t : State) => answers .ok t (field1 (channelValue c t))
    let marked := fun (on : Bool) => s.onDcu fun u => { u with holds := { u.holds with grinder := true }, serviceGrind := on }
    (s.plk.mode = .halted → answers .configBad s []) ∧ (s.plk.mode = .start → answers .notReady s [])
    ∧ (s.plk.mode = .serving → 1 ≤ c → c ≤ 7 → answers .notService s [])
    ∧ (s.plk.mode = .serving ∨ s.plk.mode = .service → c = 0 ∨ 7 < c → answers .badRequest s [])
    ∧ (s.plk.mode = .service → 1 ≤ c → c ≤ 7 →
        (suits c v = false → answers .badValue s [])
        ∧ (suits c v = true →
          (c = 1 → answers .ok (s.onDcu fun u => { u with
              heater := if s.heaterBarred then 0 else min v (heatDuty s.conf u.granted), holds := { u.holds with heater := true } })
            (field1 (if s.heaterBarred then 0 else min v (heatDuty s.conf s.dcu.granted))))
          ∧ (c = 2 → 0 < v → s.dcu.basePerm = false → answers .noBase s [])
          ∧ (c = 2 → v = 0 ∨ s.dcu.basePerm = true →
              answers .ok (setPump v (s.onDcu fun u => { u with holds := { u.holds with pump := true } })) (field1 v))
          ∧ (c = 5 → answers .ok (s.onDcu fun u => { u with
              valveBrew := v == 1, holds := { u.holds with valveBrew := true } }) (field1 v))
          ∧ (c = 6 → answers .ok (s.onDcu fun u => { u with
              valveDrain := v == 1, holds := { u.holds with valveDrain := true } }) (field1 v))
          ∧ (c = 7 → answers .ok (s.onDcu fun u => { u with
              valveRinse := v == 1, holds := { u.holds with valveRinse := true } }) (field1 v))
          ∧ (c = 3 →
            (v = 1 → s.grinderBarred = true → answers .grinderBlocked s [])
            ∧ (v = 1 → s.grinderBarred = false → drives (react
                ((if s.dcu.grindPerm then setGrinder true (marked true) else marked true).onGrc fun g => { g with serviceWish := true },
                 [.stuGrindWish true])))
            ∧ (v = 0 → s.grc.serviceWish = true → drives (react
                (((setGrinder false s).onDcu fun u => { u with holds := { u.holds with grinder := true }, serviceGrind := false }).onGrc
                  fun g => { g with serviceWish := false }, [.stuGrindWish false])))
            ∧ (v = 0 → s.grc.serviceWish = false → drives
                ((setGrinder false s).onDcu fun u => { u with holds := { u.holds with grinder := true }, serviceGrind := false })))
          ∧ (c = 4 →
            (v = 0 → drives ((s.onDcu fun u => { u with brewer := .stop }).onBrc fun b =>
                { b with move := none, position := s.positionNow }))
            ∧ (v = 1 ∨ v = 2 → s.dcu.basePerm = false → answers .noBase s [])
            ∧ (v = 1 ∨ v = 2 → s.dcu.basePerm = true →
                ((∃ m, s.brc.move = some m ∧ m.up = (v == 1)) → drives s)
                ∧ ((∀ m, s.brc.move = some m → m.up ≠ (v == 1)) →
                  let w := if s.brc.move = none then s
                    else (s.onDcu fun u => { u with brewer := .stop }).onBrc fun b => { b with move := none, position := s.positionNow }
                  let goal : Position := if v = 1 then .top else .bottom
                  (w.brc.position = goal → perform (.brcMove (v == 1)) w = (w, [.brcArrived (v == 1)])
                    ∧ drives (react (w, [.brcMove (v == 1)])) ∧ (s.brc.unit = .idle → drives w))
                  ∧ (w.brc.position ≠ goal → s.brc.stuck = true → drives w)
                  ∧ (w.brc.position ≠ goal → s.brc.stuck = false → drives
                    ((w.onDcu fun u => { u with brewer := if v = 1 then .up else .down }).onBrc fun b =>
                      { b with move := some { up := v == 1, deadline := s.timeBase + s.conf.motionLimitS * 1000 } })))))))

/-! ### Counting -/

/-- A taken change of the encoder: one place along (low, low), (high, low), (high, high), (low, high) is a step forward; two places
are a skip; in REACHED nothing counts; a count that reaches the target of a COUNTING run stops GRINDER once and ends the run. In X4
every step counts, in X2 those in which ENC_A changes, in X1 those between (low, low) and (high, low) (R70, R71, R74, R79; the pair
held at the load: log 58). -/
def Obligations.EncoderStepsMoveTheGrindCount : Prop :=
  (∀ (s : State) (a b : Bool), s.working = true → s.Settled →
    let old := encoderPlace s.pins.encA s.pins.encB
    let new := encoderPlace a b
    let k := s.cnu.grind
    let n := if (old + 1) % 4 = new then min 65535 (k.count + 1) else k.count - 1
    let counts := countingStep s.conf.encoderMode old new = true
    let moved := s.onPins fun p => { p with encA := a, encB := b }
    let counted := moved.onCnu fun u => { u with grind := { u.grind with
      count := n, monitor := match u.grind.monitor with | .watch _ => .watch s.timeBase | m => m } }
    (old = new → exec (.encoderStep a b) s = .next moved)
    ∧ ((old + 2) % 4 = new → exec (.encoderStep a b) s = .next (moved.onCnu fun u => { u with skips := min 255 (u.skips + 1) }))
    ∧ (old ≠ new → (old + 2) % 4 ≠ new → (¬ counts ∨ k.run = .reached) → exec (.encoderStep a b) s = .next moved)
    ∧ (old ≠ new → (old + 2) % 4 ≠ new → counts → k.run ≠ .reached → reachesTarget k n = false →
        exec (.encoderStep a b) s = .next counted)
    ∧ (old ≠ new → (old + 2) % 4 ≠ new → counts → k.run ≠ .reached → reachesTarget k n = true →
        exec (.encoderStep a b) s = .next (react (endRun .grind .target (setGrinder false counted)))))
  ∧ ∀ a b a' b' : Bool,
    let old := encoderPlace a b
    let new := encoderPlace a' b'
    ((a != a') = !(b != b') → countingStep .x4 old new = true ∧ countingStep .x2 old new = (a != a')
      ∧ countingStep .x1 old new = (!b && !b' && a != a'))
    ∧ encoderPlace false false = 0 ∧ encoderPlace true false = 1 ∧ encoderPlace true true = 2 ∧ encoderPlace false true = 3
    ∧ ((old + 2) % 4 = new ↔ (a ≠ a' ∧ b ≠ b'))

/-- The flow count: each rising level adds 1 and stays at 65535, is an edge for the monitor, and is one flow count for the CLC in
every run state; a count that reaches the target of a COUNTING run ends it, PUMP being stopped first; arming and the resets set it to
0 (R72, R74). The CLC has its flow count before the run ends (the model's choice, log 46). -/
def Obligations.FlowEdgesAreCounted : Prop :=
  (∀ s : State, s.working = true → s.Settled →
    let k := s.cnu.flow
    let n := min 65535 (k.count + 1)
    let counted := flowCount (s.onCnu fun u => { u with flow := { u.flow with
      count := n, monitor := match u.flow.monitor with | .watch _ => .watch s.timeBase | m => m } })
    (reachesTarget k n = false → exec .flowEdge s = .next counted)
    ∧ (reachesTarget k n = true → exec .flowEdge s = .next (react (endRun .flow .target (setPump 0 counted)))))
  ∧ (∀ (s : State) (o : Owner) (target : Nat), (armCommit .flow o target s).cnu.flow.count = 0)
  ∧ State.reset.cnu.flow.count = 0
  ∧ (∀ s : State, s.pins.resetAsserted = false → ∀ intact, ∃ t, exec (.resetNAssert intact) s = .next t ∧ t.cnu.flow.count = 0)

/-- At the end of a run the captures move on and the owner is told; the rate record is then updated if the run ended TARGET, COUNTED
and lasted a second, to a quarter of three old records and the measured rate, and nothing else changes (R85). -/
def Obligations.RateRecordFollowsTheRun : Prop :=
  ∀ (s : State) (c : CounterId) (cause : EndCause),
    let k := s.counter c
    let cap : Capture := { count := k.count, mode := k.mode, cause := cause, duration := min 65535 (s.timeBase - k.startTime) }
    ((endRun c cause s).1.counter c).capture = cap ∧ ((endRun c cause s).1.counter c).previous = k.capture
    ∧ .rateUpdate c cap ∈ (endRun c cause s).2
    ∧ (∀ o, k.owner = some o → (endRun c cause s).2.head? = some (.runEnded o cap))
    ∧ (∀ u : State, (u.counter c).latch = false → perform (.rateUpdate c cap) u =
        (if cause = .target ∧ k.mode = .counted ∧ 1000 ≤ cap.duration
          then onCounter c (fun v => { v with rate := max 1 ((3 * v.rate + k.count * 100 / cap.duration) / 4) }) u
          else u, []))
    ∧ ∀ u : State, (u.counter c).latch = true → perform (.rateUpdate c cap) u = (u, [])

/-- Arming a run: a run already armed ends DISARM first; the count becomes 0, target, owner and start time are recorded, and the run
is COUNTING, or TIMED for the run time at the recorded rate, rounded up, while the fallback latch is set. After the spin-up time a
monitor watches; after the loss time it trips, which sets the latch, turns a COUNTING run to time for the counts that remain, and
posts DEGRADED; the grind monitor waits once more while GR_OVLD is asserted; a timed run ends by time with the one-shot stop (R73,
R79 to R82). -/
def Obligations.RunsAreArmedAndWatched : Prop :=
  ∀ (s : State) (c : CounterId),
    (∀ (o : Owner) (target : Nat),
      let k := s.counter c
      (armedRun k = true → perform (.cnuArm c o target) s = ((endRun c .disarm s).1, (endRun c .disarm s).2 ++ [.cnuArmCommit c o target]))
      ∧ (armedRun k = false → perform (.cnuArm c o target) s = perform (.cnuArmCommit c o target) s)
      ∧ perform (.cnuArmCommit c o target) s = (onCounter c (fun v => { v with
          count := 0, target := some target, owner := some o, startTime := s.timeBase, armedTimed := v.latch,
          run := if v.latch then .timed else .counting, mode := if v.latch then .timed else .counted,
          endTime := if v.latch then some (s.timeBase + runTime v.rate target) else none }) s, [])
      ∧ (∀ rate counts, 0 < rate → counts * 100 ≤ runTime rate counts * rate ∧ runTime rate counts * rate < counts * 100 + rate))
    ∧ (s.Settled →
      (s.dueSpinUp c = true → exec (.spinUpExpiry c) s = .next (onCounter c (fun k => { k with monitor := .watch s.timeBase }) s))
      ∧ (s.dueLoss c = true → c = .grind → s.pins.grOvld = true →
          exec (.lossTimeExpiry c) s = .next (onCounter c (fun k => { k with monitor := .watch s.timeBase }) s))
      ∧ (s.dueLoss c = true → (c = .flow ∨ s.pins.grOvld = false) →
          exec (.lossTimeExpiry c) s = .next (postNotice .degraded none (lossCode c) 0 0 (onCounter c (fun k =>
            if k.run = .counting then { k with
              latch := true, monitor := .off, run := .timed, mode := .timed,
              endTime := some (s.timeBase + runTime k.rate (orZero k.target - k.count)) }
            else { k with latch := true, monitor := .off }) s)))
      ∧ (s.dueTimedEnd c = true → exec (.timedRunEnd c) s = .next (react (endRun c .time
          (match c with | .grind => setGrinder false s | .flow => setPump 0 s)))))


/-! ### Grinding -/

/-- The target of a grind is dose × counts per 0.1 g × percent / 100, rounded down, from 1 to 65535, with 80 % to 120 % for the
strengths 1 to 5; an accepted grind holds it and wishes for power, and an open lid fails it at once. GRANTED arms the counter and asks
for GRINDER ON; where the DCU refuses, the grind fails by the lines as they stand. The end of its run closes the grind: DONE with the
overload count at 0, CANCELLED after a stop, or the outcome that G_STOP holds, with the counter released and the wish lowered (R88 to
R90, R93 to R95, R98, R99, R101). -/
def Obligations.GrindTargetFollowsTheDose : Prop :=
  (∀ (c : Cfg) (dose strength : Nat), 1 ≤ strength → strength ≤ 5 →
      grindTarget c dose strength =
        min 65535 (max 1 (dose * c.countsPerDecigram * [0, 80, 90, 100, 110, 120].getD strength 0 / 100)))
  ∧ (∀ c : Cfg, (c.countsPerDecigram = 4 → grindTarget c 90 3 = 360 ∧ grindTarget c 90 4 = 396)
      ∧ (c.countsPerDecigram = 5 → grindTarget c 72 1 = 288) ∧ (c.countsPerDecigram = 1 → grindTarget c 1 1 = 1)
      ∧ (c.countsPerDecigram = 255 → grindTarget c 250 5 = 65535))
  ∧ (∀ (s : State) (order recipe strength : Nat),
      let target := grindTarget s.conf (s.recipe recipe).dose strength
      (s.pins.lidOpen = false → grindAccept order recipe strength s =
        (s.onGrc fun g => { g with
            state := .waitPower, job := some { order := order, recipe := recipe, strength := strength, target := target },
            waitDeadline := some (s.timeBase + s.conf.grindPowerWaitS * 1000) }, [.stuGrindWish true]))
      ∧ (s.pins.lidOpen = true → grindAccept order recipe strength s =
        (s.onGrc fun g => { g with state := .idle, job := none, waitDeadline := none, held := none },
         [.oruGrindReport { order := order, outcome := .failed .lidOpen, count := 0, mode := .counted, target := target }])))
  ∧ ∀ (s : State) (j : GrindJob), s.grc.job = some j →
      let barred := s.pins.lidOpen || s.pins.grOvld || s.grc.fault || s.cnu.grind.run == .reached || !s.dcu.grindPerm
      let closed := fun (overloads : Nat) => { s with
        cnu := { s.cnu with grind :=
          if s.cnu.grind.run = .reached then { s.cnu.grind with run := .idle, target := none } else s.cnu.grind },
        grc := { s.grc with state := .idle, job := none, waitDeadline := none, held := none, overloads := overloads } }
      (s.grc.state ≠ .waitPower → perform .grcGranted s = (s, []) ∧ perform .grcStartGrinder s = (s, []))
      ∧ (s.grc.state = .waitPower →
          perform .grcGranted s = (s, [.cnuArm .grind .grc j.target, .grcStartGrinder])
          ∧ (barred = false → perform .grcStartGrinder s =
              ((setGrinder true s).onGrc fun g => { g with state := .run, waitDeadline := none }, []))
          ∧ (barred = true → perform .grcStartGrinder s = failRun
              (if s.pins.lidOpen then .failed .lidOpen else if s.pins.grOvld then .failed .grinderOverload else .failed .noPower)
              (!s.pins.lidOpen && s.pins.grOvld) s))
      ∧ ∀ cap : Capture,
          let report := fun (o : GrindOutcome) => Act.oruGrindReport
            { order := j.order, outcome := o, count := cap.count, mode := cap.mode, target := j.target }
          (s.grc.state = .run → cap.cause = .target ∨ cap.cause = .time →
            perform (.runEnded .grc cap) s = (closed 0, [.stuGrindWish false, report .done]))
          ∧ (s.grc.state = .run → cap.cause = .stop →
            perform (.runEnded .grc cap) s = (closed s.grc.overloads, [.stuGrindWish false, report .cancelled]))
          ∧ (∀ o, s.grc.state = .stop → s.grc.held = some o → perform (.runEnded .grc cap) s = (closed s.grc.overloads, [report o]))
          ∧ (s.grc.state = .idle ∨ s.grc.state = .waitPower → perform (.runEnded .grc cap) s = (s, []))

/-- An assertion of LID_OPEN or GR_OVLD takes GRINDER OFF and clears the service grind mark; it fails the grind in hand as its state
says, and lowers a service grind wish; another change of the two lines moves the level alone. The power wait ends FAILED NO_POWER with
count 0 (R59, R66, R92, R95, R96, R101, R102). -/
def Obligations.LidOverloadAndPowerWaitEndTheGrind : Prop :=
  ∀ (s : State) (j : GrindJob), s.working = true → s.Settled →
    let lid := fun (b : Bool) => s.onPins fun p => { p with lidOpen := b }
    let ovld := fun (b : Bool) => s.onPins fun p => { p with grOvld := b }
    let off := fun (u : State) => (setGrinder false u).onDcu fun d => { d with serviceGrind := false }
    let lowered := fun (u : State) => (u.onGrc fun g => { g with serviceWish := false }, [Act.stuGrindWish false])
    (exec (.lidOpenAssert false) s = .next (lid false)) ∧ (exec (.grOvldAssert false) s = .next (ovld false))
    ∧ (s.pins.lidOpen = true → exec (.lidOpenAssert true) s = .next s)
    ∧ (s.pins.grOvld = true → exec (.grOvldAssert true) s = .next s)
    ∧ (s.pins.lidOpen = false →
        (s.grc.state = .waitPower → s.grc.job = some j → exec (.lidOpenAssert true) s = .next (react
          ((off (lid true)).onGrc fun g => { g with state := .idle, job := none, waitDeadline := none, held := none },
           [.stuGrindWish false,
            .oruGrindReport { order := j.order, outcome := .failed .lidOpen, count := 0, mode := .counted, target := j.target }])))
        ∧ (s.grc.state = .run → exec (.lidOpenAssert true) s = .next (react (failRun (.failed .lidOpen) false (off (lid true)))))
        ∧ (s.grc.state = .idle ∨ s.grc.state = .stop →
            (s.grc.serviceWish = true → exec (.lidOpenAssert true) s = .next (react (lowered (off (lid true)))))
            ∧ (s.grc.serviceWish = false → exec (.lidOpenAssert true) s = .next (off (lid true)))))
    ∧ (s.pins.grOvld = false →
        (s.grc.state = .waitPower → exec (.grOvldAssert true) s = .next (off (ovld true)))
        ∧ (s.grc.state = .run →
            exec (.grOvldAssert true) s = .next (react (failRun (.failed .grinderOverload) true (off (ovld true)))))
        ∧ (s.grc.state = .idle ∨ s.grc.state = .stop → (s.dcu.serviceGrind && s.dcu.grinder) = false →
            (s.grc.serviceWish = true → exec (.grOvldAssert true) s = .next (react (lowered (off (ovld true)))))
            ∧ (s.grc.serviceWish = false → exec (.grOvldAssert true) s = .next (off (ovld true))))
        ∧ (s.grc.state = .idle ∨ s.grc.state = .stop → (s.dcu.serviceGrind && s.dcu.grinder) = true →
            let e := if s.grc.serviceWish then lowered (off (ovld true)) else (off (ovld true), [])
            exec (.grOvldAssert true) s = .next (react ((countOverload e.1).1, e.2 ++ (countOverload e.1).2))))
    ∧ (s.dueGrindPower = true → s.grc.job = some j → exec .grindPowerTimeout s = .next (react
        (s.onGrc fun g => { g with state := .idle, job := none, waitDeadline := none, held := none },
         [.stuGrindWish false,
          .oruGrindReport { order := j.order, outcome := .failed .noPower, count := 0, mode := .counted, target := j.target }])))

/-- A grind that fails or is cancelled: GRINDER OFF, the record in G_STOP with the outcome held, the counter disarmed where it is armed
and unchanged in REACHED or IDLE, the wish lowered. An overload is counted, and the second in a row sets the grinder fault latch with
its stop event and notice. CANCEL_GRIND is answered NO_RUN in G_IDLE and for another order; it ends a grind that waits for power
CANCELLED with count 0, cancels a running one, each answered OK, and is answered ENDING in G_STOP, which keeps its outcome (R93, R95,
R96, R97, R98, R100). FAULT_SET comes after both (the model's choice, log 47). -/
def Obligations.OverloadsSetTheGrinderFault : Prop :=
  ∀ (s : State) (o : GrindOutcome),
    let u := (setGrinder false s).onGrc fun g => { g with state := .stop, waitDeadline := none, held := some o }
    let e := if s.cnu.grind.run = .counting ∨ s.cnu.grind.run = .timed then endRun .grind .disarm u else (u, [])
    failRun o false s = (e.1, .stuGrindWish false :: e.2)
    ∧ (s.grc.overloads = 0 → failRun o true s = (e.1.onGrc fun g => { g with overloads := 1 }, .stuGrindWish false :: e.2))
    ∧ (1 ≤ s.grc.overloads → failRun o true s =
        (e.1.onGrc fun g => { g with overloads := 2, fault := true },
         [.stopEvent .grinderFault, .post .fault (s.grc.job.map GrindJob.order) 10 0 0, .oruFaultSet, .stuGrindWish false] ++ e.2))
    ∧ (∀ a, perform (.brcGrindCancelAnswer a) s = (s, []))
    ∧ (∀ n, s.grc.state = .idle ∨ (∀ j, s.grc.job = some j → j.order ≠ n) →
        cancelGrind n s = (s, [.brcGrindCancelAnswer .noRun]))
    ∧ (∀ j, s.grc.job = some j →
        (s.grc.state = .waitPower → cancelGrind j.order s =
          (s.onGrc fun g => { g with state := .idle, job := none, waitDeadline := none, held := none },
           [.stuGrindWish false,
            .oruGrindReport { order := j.order, outcome := .cancelled, count := 0, mode := .counted, target := j.target },
            .brcGrindCancelAnswer .ok]))
        ∧ (s.grc.state = .run → cancelGrind j.order s =
          ((failRun .cancelled false s).1, (failRun .cancelled false s).2 ++ [.brcGrindCancelAnswer .ok]))
        ∧ (s.grc.state = .stop → cancelGrind j.order s = (s, [.brcGrindCancelAnswer .ending])))

/-! ### Brewing and the boiler -/

/-- The end switches give the position; a contradictory pair sets the brewer-stuck latch, code SWITCHES, as does a move that passes
its deadline, code LIMIT; the end switch of a move stops BREWER and reports the arrival (R62, R106). FAULT_SET follows the stop event
and the FAULT notice (log 47), and with no move in hand the switches give the position alone (log 68): the model's choices. -/
def Obligations.EndSwitchesEndTheMove : Prop :=
  ∀ (s : State) (top bottom : Bool), s.working = true → s.Settled →
    let u := (s.onPins fun p => { p with brTop := top, brBot := bottom }).onBrc fun b => { b with
      position := if top && !bottom then .top else if !top && bottom then .bottom else .between }
    let stuck := fun (code : Nat) (v : State) => (v.onBrc fun b => { b with stuck := true },
      [Act.stopEvent .brewerStuck, .post .fault (s.cupRun.map CupRun.order) 8 code 0, .oruFaultSet])
    (top = true → bottom = true →
      (s.brc.stuck = false → exec (.brewerEndSwitch top bottom) s = .next (react (stuck 2 u)))
      ∧ (s.brc.stuck = true → exec (.brewerEndSwitch top bottom) s = .next u))
    ∧ ((top && bottom) = false →
      (∀ m, s.brc.move = some m → (if m.up then top else bottom) = true → exec (.brewerEndSwitch top bottom) s = .next (react
        ((u.onDcu fun d => { d with brewer := .stop }).onBrc fun b => { b with move := none }, [.brcArrived m.up])))
      ∧ (∀ m, s.brc.move = some m → (if m.up then top else bottom) = false → exec (.brewerEndSwitch top bottom) s = .next u)
      ∧ (s.brc.move = none → exec (.brewerEndSwitch top bottom) s = .next u))
    ∧ (s.dueMotion = true → s.brc.stuck = false → exec .brewerMotionTimeout s = .next (react (stuck 1 s)))
    ∧ (s.dueMotion = true → s.brc.stuck = true → exec .brewerMotionTimeout s = .next s)

/-- The states of a cup run and their deadlines. Each state sets its phase and starts what R107 names: a move, the grind, a flow run
to its target, a timer; a prewet or soak of 0 is passed over, and a heat wait with the boiler READY. The prewet limit and the
extraction deadline disarm the flow counter, the latter with outcome SHORT; the soak ends in the heat wait; a heat wait that runs out
aborts the run; the drain ends in the eject; a drawer that stays out ends the run with its puck retained. An aborted run without
grounds ends; one with grounds ejects them where base and the brewer allow, and otherwise ends with its puck retained. A brewer that
arrives at TOP in the eject drops the puck and ends the run. Each end reports the order, the outcome, the counts and modes of the
grind and of the extraction, and the puck. The end of the run closes the order that runs: it leaves the queue, a debited one with
DELIVERED or its refund due, the reserve falls, a cup made is counted, ORDER_CLOSED tells the outcome (R107 to R113, R116, R133, R134,
R160, R172). -/
def Obligations.CupRunDeadlinesAct : Prop :=
  (∀ (s : State) (o : Order) (report : RunEnd), (s.oru.queue.find? fun o => o.state == .running) = some o →
    let outcome := report.outcome
    let left := s.onOru fun q => { q with queue := q.queue.filter fun x => x.number != o.number }
    let badge := o.badge.getD 0#32
    let mode := match o.grind with
      | some (.report g) => some g.mode
      | _ => none
    let settled := if o.debitSeq = none then left
      else reserveDown 1 (if outcome = .delivered
        then appendEntry .delivered badge o.price (some o.number) (some o.recipe) mode none false left
        else appendRefundDue badge o.price o.number left)
    (o.number ≠ report.order → perform (.oruRunEnd report) s = (s, []))
    ∧ (o.number = report.order → o.state = .running → perform (.oruRunEnd report) s =
        (if outcome = .delivered ∨ outcome = .short then cupMade settled else settled,
         [.post .orderClosed (some o.number)
            (match outcome with | .delivered => 1 | .short => 2 | .failed _ => 3 | .cancelled => 4 | .expired => 5)
            (match outcome with | .failed a => a.code | _ => 0) 0,
          .oruCupPending, .oruStart])))
  ∧ ∀ (s : State) (r : CupRun), s.cupRun = some r → s.Settled →
    let moved := fun (st : RunState) (d : Option Nat) =>
      s.onBrc fun b => { b with run := some { r with state := st, deadline := d, waiting := false } }
    let recipe := s.recipe r.recipe
    let ends := fun (seconds : Nat) => some (s.timeBase + seconds * 1000)
    let counts := fun (ml : Nat) => min 65535 (max 1 (ml * s.conf.flowPer10ml / 10))
    let enters := fun (st : RunState) => perform (.brcEnter st) s
    let reports := fun (outcome : OrderOutcome) (puck : Puck) =>
      [Act.oruRunEnd
        { order := r.order, outcome := outcome, grind := r.grind.map fun g => (g.count, g.mode), extraction := r.extraction, puck := puck },
       .brcUnitIdle]
    let cause := fun (a : Reason) => if a = .cancelled then OrderOutcome.cancelled else .failed a
    (enters .home = (phaseSet .idle (moved .home none), [.brcHeat, .brcMove true]))
    ∧ (enters .grind = (phaseSet .idle (moved .grind none), [.oruGrindReady]))
    ∧ (enters .close = (phaseSet .idle (moved .close none), [.brcHeat, .brcMove false]))
    ∧ (recipe.prewet = 0 → enters .prewet = (s, [.brcEnter .soak]))
    ∧ (0 < recipe.prewet → enters .prewet =
        (phaseSet .prewet (moved .prewet (ends s.conf.extractionLimitS)), [.cnuArm .flow .brc (counts recipe.prewet)]))
    ∧ (recipe.soak = 0 → enters .soak = (s, [.brcEnter .heatWait]))
    ∧ (0 < recipe.soak → enters .soak = (phaseSet .soak (moved .soak (ends recipe.soak)), []))
    ∧ (s.brc.regulator = .ready → enters .heatWait = (moved .heatWait none, [.brcEnter .extract]))
    ∧ (s.brc.regulator ≠ .ready → enters .heatWait = (moved .heatWait (ends s.conf.heatWaitS), []))
    ∧ (enters .extract = (phaseSet .extract (moved .extract (ends s.conf.extractionLimitS)), [.cnuArm .flow .brc
        (counts (match r.size with | 1 => recipe.volumeS | 2 => recipe.volumeM | _ => recipe.volumeL))]))
    ∧ (enters .drain = (phaseSet .drain (moved .drain (ends s.conf.drainTimeS)), [.brcHeat]))
    ∧ (enters .eject = (phaseSet .eject (moved .eject none), [.brcHeat, .brcEject]))
    ∧ (∀ a, r.abort = some a →
        (r.grounds = false → perform .brcProceed s = (s, reports (cause a) .none))
        ∧ (r.grounds = true → s.dcu.basePerm = true → s.brc.stuck = false → perform .brcProceed s =
            (s.onBrc fun b => { b with run := some { r with cleanOut := true } },
             [.brcEnter (if s.brc.position = .bottom then .eject else .close)]))
        ∧ (r.grounds = true → s.dcu.basePerm = false ∨ s.brc.stuck = true → perform .brcProceed s =
            ((countPuck s).onBrc fun b => { b with retained := true }, reports (cause a) .retained)))
    ∧ (r.state = .eject → perform (.brcArrived true) s =
        (countPuck (s.onBrc fun b => { b with run := some { r with grounds := false } }),
         reports (match r.abort with | some a => cause a | none => if r.pending = some .short then .short else .delivered) .dropped))
    ∧ (s.dueRun .prewet = true → armedRun s.cnu.flow = true → exec .prewetLimitExpiry s = .next (react (endRun .flow .disarm s)))
    ∧ (s.dueRun .prewet = true → armedRun s.cnu.flow = false → exec .prewetLimitExpiry s = .next s)
    ∧ (s.dueRun .soak = true → s.brc.regulator = .ready →
        exec .soakTimerExpiry s = .next (react (moved .heatWait none, [.brcEnter .extract])))
    ∧ (s.dueRun .soak = true → s.brc.regulator ≠ .ready →
        exec .soakTimerExpiry s = .next (moved .heatWait (some (s.timeBase + s.conf.heatWaitS * 1000))))
    ∧ (s.dueRun .heatWait = true → exec .heatWaitTimeout s = .next (react
        (s.onBrc fun b => { b with run := some { r with abort := some (r.abort.getD .heatTimeout) } }, [.stopEvent .heatTimeout])))
    ∧ (s.dueRun .extract = true →
        let u := s.onBrc fun b => { b with run := some { r with pending := some .short } }
        let e := if armedRun s.cnu.flow then endRun .flow .disarm u else (u, [])
        exec .extractionDeadline s = .next (react (e.1, e.2 ++ [.brcEnter .drain])))
    ∧ (s.dueRun .drain = true →
        exec .drainTimerExpiry s = .next (react (phaseSet .eject (moved .eject none), [.brcHeat, .brcEject])))
    ∧ (s.dueEject = true → r.abort = none → exec .ejectTimeout s = .next (react
        ((countPuck s).onBrc fun b => { b with retained := true }, reports (.failed .drawerTimeout) .retained)))
    ∧ (s.dueEject = true → ∀ a, r.abort = some a → exec .ejectTimeout s = .next (react
        ((countPuck s).onBrc fun b => { b with retained := true }, reports (cause a) .retained)))

/-- The drawer: replaced, it resets the puck count (to a retained puck) and the drawer limit; a cup run in B_EJECT hears of each
change, and a recovery eject ends when the drawer is taken out. A recovery eject starts toward BOTTOM in the phase IDLE (R112, R114,
R116). -/
def Obligations.DrawerChangesAreTaken : Prop :=
  ∀ (s : State) (inPlace : Bool), s.working = true → s.Settled →
    let u := (s.onPins fun p => { p with drawerIn := inPlace }).onBrc fun b =>
      { b with
        drawerIn := inPlace,
        pucks := if inPlace = true ∧ b.drawerIn = false then flagCode b.retained else b.pucks,
        drawerLimit := if inPlace = true ∧ b.drawerIn = false then s.conf.drawerLimit else b.drawerLimit }
    (s.brc.unit = .cup → exec (.drawerInChange inPlace) s = .next (react (u, [.brcEject])))
    ∧ (s.brc.unit = .recovery → inPlace = false → exec (.drawerInChange inPlace) s = .next (react
        ((u.onDcu fun d => { d with brewer := .stop }).onBrc fun b => { b with move := none, position := s.positionNow },
         [.brcUnitIdle])))
    ∧ (s.brc.unit = .idle ∨ s.brc.unit = .step ∨ (s.brc.unit = .recovery ∧ inPlace = true) →
        exec (.drawerInChange inPlace) s = .next u)
    ∧ (s.recoveryConditions = true → exec .recoveryEjectStart s = .next (react
        (phaseSet .idle (s.onBrc fun b => { b with unit := .recovery, recoveryUp := false }), [.brcMove false])))

/-- The regulator follows BOIL_COLD: a change of its state is reported to the DCU, which sets HEATER from it. An assertion of
BOIL_OVHT sets the overheat latch: HEATER 0 % and TRIPPED in the same action, then the stop event, the heat wish, the FAULT notice
(which carries no order number, the model's choice, log 37) and the orders (FAULT_SET after the notice, log 47); while the latch is
set, or at a negation, the level alone moves. The standby time sets the standby mark (R57, R58, R104, R110, R117, R118, R120). -/
def Obligations.BoilerSwitchesDriveTheHeater : Prop :=
  ∀ s : State, s.working = true → s.Settled →
  (∀ cold : Bool,
    let p := s.onPins fun p => { p with boilCold := cold }
    let r := if s.brc.overheat then Regulator.tripped
      else if s.brc.steppedDown || s.brc.heatWish == .off then .off
      else if cold then .heating else .ready
    let u := heatLoad ((p.onBrc fun b => { b with regulator := r }).onDcu fun d => { d with regulator := r })
    (r = s.brc.regulator → exec (.boilColdChange cold) s = .next p)
    ∧ (r ≠ s.brc.regulator → r ≠ .ready → exec (.boilColdChange cold) s = .next u)
    ∧ (r ≠ s.brc.regulator → r = .ready → (s.cupRun.any fun c => c.state == .heatWait && c.abort.isNone) = false →
        s.unitStep ≠ some .heatWait → exec (.boilColdChange cold) s = .next u)
    ∧ exec (.boilColdChange cold) s = .next (react (p, [.brcRegulator]))
    ∧ ∀ v : State, heatLoad v = v.onDcu fun d => { d with
        heater := if v.heaterBarred then 0
          else if d.holds.heater then min d.heater (heatDuty v.conf d.granted)
          else if d.regulator = .heating then heatDuty v.conf d.granted
          else 0 })
  ∧
    let p := fun (b : Bool) => s.onPins fun p => { p with boilOvht := b }
    (s.pins.boilOvht = false → s.brc.overheat = false → exec (.boilOvhtAssert true) s = .next (react
      (((p true).onBrc fun b => { b with overheat := true, regulator := .tripped }).onDcu fun d =>
        { d with regulator := .tripped, heater := 0 },
       [.stopEvent .overheat, .brcHeat, .post .fault none 9 0 0, .oruFaultSet])))
    ∧ (s.pins.boilOvht = true ∨ s.brc.overheat = true → exec (.boilOvhtAssert true) s = .next (p true))
    ∧ exec (.boilOvhtAssert false) s = .next (p false)
    ∧ (s.dueStandby = true → exec .standbyTimeout s = .next (react (s.onBrc fun b => { b with standby := true }, [.brcHeat])))

/-- Whatever the machine was doing, once LID_OPEN or GR_OVLD is asserted GRINDER is OFF, and once BOIL_OVHT is asserted HEATER is at
0 %, provided the interlocks held before (R58, R59). -/
def Obligations.SafetyLinesHoldTheirChannels : Prop :=
  ∀ s : State, Interlocks s → Inert s →
    (∃ t, exec (.lidOpenAssert true) s = .next t ∧ t.pins.lidOpen = true ∧ t.dcu.grinder = false)
    ∧ (∃ t, exec (.grOvldAssert true) s = .next t ∧ t.pins.grOvld = true ∧ t.dcu.grinder = false)
    ∧ (∃ t, exec (.boilOvhtAssert true) s = .next t ∧ t.pins.boilOvht = true ∧ t.dcu.heater = 0)

/-! ### Orders -/

/-- ORDER: the first test that fails names the refusal, which changes nothing but the reply slot; an order that passes them all joins
the tail of the queue, READY when FREE and WAIT_PAY with its tap deadline when BADGE, at the recipe's price; the step-down, the
standby mark and the standby time end, and the reply gives number, state and price. A start point asks for the unit for the oldest
READY record while none runs: granted, the record is RUNNING and its cup run begins in B_HOME; refused, the waiting mark is set, but
for NOT_SERVING and FAULT (R103, R120, R124, R125, R129, R130, R196, R208), which leave it as it is (the model's choice, log 48). -/
def Obligations.OrdersAreTestedAndAdmitted : Prop :=
  (∀ s : State,
    let marks := fun (waits : Bool) => if waits then s.onBrc fun b => { b with cupWaiting := true } else s
    let tests : List (Bool × Bool) := [
      (decide (s.plk.mode ≠ .serving), false), (s.grc.fault || s.brc.stuck || s.brc.overheat, false),
      (s.clc.rinseRequired, true), (s.brc.retained, true), (decide (s.brc.unit ≠ .idle), true), (!s.dcu.basePerm, true)]
    ((∃ o ∈ s.oru.queue, o.state = .running) → perform .oruStart s = (s, []))
    ∧ ((s.oru.queue.find? fun o => o.state == .ready) = none → perform .oruStart s = (s, []))
    ∧ ∀ o, (∀ x ∈ s.oru.queue, x.state ≠ .running) → (s.oru.queue.find? fun o => o.state == .ready) = some o →
        (∀ test, tests.find? (·.1) = some test → perform .oruStart s = (marks test.2, []))
        ∧ (tests.find? (·.1) = none → perform .oruStart s = ({ s with
            oru := { s.oru with queue := s.oru.queue.map fun x => if x.number = o.number then { x with state := .running } else x },
            brc := { s.brc with
              unit := .cup, cupWaiting := false,
              run := some {
                order := o.number, recipe := o.recipe, size := o.size, strength := o.strength, state := .home, grounds := false,
                grind := none, grindOver := false, extraction := none, pending := none, abort := none, cleanOut := false,
                stop := .notMade, waiting := false, deadline := none } } },
            [.brcEnter .home])))
  ∧ ∀ (s : State) (recipe size strength payMode : Byte), s.pins.resetAsserted = false → s.plk.mode ≠ .halted →
    let answers := fun (r : Result) (t : State) (body : List Byte) => exec (.order recipe size strength payMode) s
      = .next (placeReply 6#8 7 { state := t, result := r, body := body, notices := 0 })
    let table := s.recipe recipe.toNat
    let price := match size.toNat with
      | 1 => table.priceS
      | 2 => table.priceM
      | 3 => table.priceL
      | _ => none
    let free := payMode = 2#8
    let tests : List (Bool × Result) := [
      (decide (s.plk.mode = .start ∨ s.stu.lineState = .joining), .notReady),
      (decide (s.plk.mode = .service), .serviceMode),
      (s.grc.fault || s.brc.stuck || s.brc.overheat, .outOfService),
      (s.clc.rinseRequired && !s.inStretch, .rinseRequired),
      (s.inStretch, .cleaning),
      (decide (7 < recipe.toNat ∨ (table.priceS = none ∧ table.priceM = none ∧ table.priceL = none)), .badRecipe),
      (decide (price = none), .badSize),
      (decide (strength.toNat < 1 ∨ 5 < strength.toNat), .badStrength),
      (decide (free ∧ s.conf.freeVend = false), .freeNotAllowed),
      (decide (4 ≤ s.oru.queue.length), .queueFull),
      (decide (s.brc.drawerLimit ≤ s.brc.pucks + s.oru.queue.length), .drawerFull),
      (decide (¬ free ∧ 64 < s.plg.log.length + s.plg.reserve + 3), .logFull)]
    let o : Order := {
      number := s.orderNumber, recipe := recipe.toNat, size := size.toNat, strength := strength.toNat, badgePay := decide (¬ free),
      state := if free then .ready else .waitPay, admitted := s.timeBase,
      tapDeadline := if free then none else some (s.timeBase + s.conf.tapWindowS * 1000), windowExpired := false, paying := false,
      badge := none, price := if free then 0 else orZero price, debitSeq := none, grind := none }
    let u := (s.onOru fun q => { q with queue := q.queue ++ [o], nextNumber := numberAfter o.number }).onBrc fun b =>
      { b with standby := false, standbySince := none }
    let reports := [Act.stuStepDownEnd] ++ (if s.brc.standby then [.brcHeat] else []) ++ [.oruCupPending]
      ++ (if free then [.oruStart] else [])
    (payMode ≠ 1#8 → payMode ≠ 2#8 → answers .badRequest s [])
    ∧ (payMode = 1#8 ∨ payMode = 2#8 →
        (∀ test, tests.find? (·.1) = some test → answers test.2 s [])
        ∧ (tests.find? (·.1) = none → answers .ok (react (u, reports))
            (field1 o.number ++ field1 (if free then 2 else 1) ++ field2 o.price)))

/-- The number of an admitted order: free of every number held, from 1 to 255, reached from the next order number past held ones only,
1 after 255; the next order number follows it; a refused ORDER consumes none; it is 1 after both resets; log entries carry the reset
epoch (R123). At most five numbers are held: four records and the payment in flight. -/
def Obligations.OrderNumbersSkipWhatIsHeld : Prop :=
  (∀ s : State, Numbered s → Ledger s →
      let held := fun n => n ∈ s.oru.queue.map Order.number ∨ ∃ p, s.pyu.payment = some p ∧ p.order.map Prod.fst = some n
      let after := fun n => if n = 255 then 1 else n + 1
      ¬ held s.orderNumber ∧ 1 ≤ s.orderNumber ∧ s.orderNumber ≤ 255
      ∧ (∃ k, s.orderNumber = Nat.repeat after k s.oru.nextNumber ∧ ∀ j, j < k → held (Nat.repeat after j s.oru.nextNumber))
      ∧ numberAfter s.orderNumber = after s.orderNumber)
  ∧ (∀ (s : State) (recipe size strength payMode : Byte), Numbered s → s.pins.resetAsserted = false → s.plk.mode ≠ .halted →
      ∃ t : State, exec (.order recipe size strength payMode) s = .next t
        ∧ ((∃ r, t.plk.reply = some r ∧ r.result = .ok ∧ t.oru.nextNumber = numberAfter s.orderNumber
              ∧ r.body.head? = some (byteOf s.orderNumber))
          ∨ (∃ r, t.plk.reply = some r ∧ r.result ≠ .ok ∧ t.oru.nextNumber = s.oru.nextNumber)))
  ∧ State.reset.oru.nextNumber = 1
  ∧ (∀ s : State, s.pins.resetAsserted = false → ∀ intact, ∃ t, exec (.resetNAssert intact) s = .next t ∧ t.oru.nextNumber = 1)
  ∧ (∀ (kind : LogKind) (badge : Badge) (amount : Nat) (order recipe : Option Nat) (mode : Option RunMode) (credit : Option Nat)
      (unlisted : Bool) (s : State),
      (appendEntry kind badge amount order recipe mode credit unlisted s).plg.log.getLast?.map LogEntry.epoch = some s.plg.epoch)

/-- CANCEL and TAP_DEADLINE. A waiting or ready order closes, CANCELLED or EXPIRED: it leaves the queue, its debit is owed back in the
log, ORDER_CLOSED is posted. A running order is cancelled through its cup run, which refuses from B_EXTRACT on and while it aborts. At
its tap deadline an order that is being paid stays, marked window-expired (R115, R128, R134, R135, R160). -/
def Obligations.CancelAndExpiryCloseOrders : Prop :=
  ∀ (s : State) (o : Order),
    let left := s.onOru fun q => { q with queue := q.queue.filter fun x => x.number != o.number }
    let closed := if o.debitSeq.isSome then reserveDown 1 (appendRefundDue (o.badge.getD 0#32) o.price o.number left) else left
    let closes := fun (code : Nat) => react (closed, [.post .orderClosed (some o.number) code 0 0, .oruCupPending])
    (∀ number : Byte, s.pins.resetAsserted = false → s.plk.mode ≠ .halted →
      let answers := fun (r : Result) (t : State) => exec (.cancel number) s
        = .next (placeReply 7#8 4 { state := t, result := r, body := [], notices := 0 })
      (s.orderOf number.toNat = none → answers .noSuchOrder s)
      ∧ (s.orderOf number.toNat = some o → o.state ≠ .running → answers .ok (closes 4))
      ∧ (s.orderOf number.toNat = some o → o.state = .running → s.Settled →
          (∀ r, s.cupRun = some r → r.order = number.toNat →
            (∀ a, r.abort = some a → answers .ending s)
            ∧ (r.abort = none →
                (r.state = .extract ∨ r.state = .drain ∨ r.state = .eject → answers .tooLate s)
                ∧ (let u := s.onBrc fun b => { b with run := some { r with abort := some .cancelled } }
                   (r.state = .home ∨ r.state = .close ∨ r.state = .prewet ∨ r.state = .soak ∨ r.state = .heatWait →
                      answers .accepted (react (u, [.stopEvent .cancelled])))
                   ∧ (r.state = .grind → answers .accepted
                      (react ((cancelGrind number.toNat u).1, .brcHeat :: (cancelGrind number.toNat u).2))))))
          ∧ ((∀ r, s.cupRun = some r → r.order ≠ number.toNat) → answers .tooLate s)))
    ∧ (∀ n : Nat, s.dueTap n = true → s.orderOf n = some o → o.state = .waitPay →
        (o.paying = true → s.Settled → exec (.tapDeadline n) s = .next (s.onOru fun q => { q with queue := q.queue.map fun x =>
          if x.number = n then { x with tapDeadline := none, windowExpired := x.paying } else x }))
        ∧ (o.paying = false → exec (.tapDeadline n) s = .next (closes 5)))

/-! ### Payment -/

/-- A PRESENT with no payment in flight is a tap: the first of its tests that fails denies it, with SIGNAL DENY and, but for the
first, PAY_DENIED; a tap that passes starts a payment that holds the badge, takes 3 of the reserve and offers a HOLD TAKE, unless the
transmit queue is full (R12, R127, R142 to R145, R165). The payment also keeps the order's recipe (log 34) and clears the new card
sequence that STATUS shows (log 18). -/
def Obligations.TapsStartPayments : Prop :=
  ∀ (s : State) (badge : Badge) (balance cardSeq : Nat), s.working = true → s.Settled → s.pyu.payment = none →
    let target := s.oru.queue.find? fun o => o.state == .waitPay && !o.paying
    let refund := (s.pyu.refunds.find? fun r => r.badge == badge).map Refund.amount
    let price := orZero (target.map Order.price)
    let number := target.map Order.number
    let sum := balance + orZero refund
    let answers := fun t => exec (.readerPresent badge balance cardSeq) s = .next t
    let denied := if 3 ≤ (s.pyu.sendQueue.filter fun r => !isWrite r).length then s
      else s.onPyu fun u => { u with sendQueue := u.sendQueue ++ [.signal false] }
    let denies := fun (code : Nat) => answers (postNotice .payDenied number code 0 0 denied)
    let starts := fun (credit : Option Nat) (deferred : Bool) =>
      let p : Payment := {
        state := .hold, tag := (s.pyu.tag + 1) % 256, badge := badge, order := target.map fun o => (o.number, o.price),
        recipe := target.map Order.recipe, refundUsed := credit, deferred := deferred, oldBalance := balance, expectedSeq := cardSeq,
        newBalance := balance + orZero credit - price, hold := .queued, holdSeq := none, taken := false, lastTake := 0,
        refreshBase := 0, deferredSettle := false, joinRefresh := false, lapsed := false,
        deadline := some (s.timeBase + s.conf.holdLeaseS * 1000) }
      (s.queueFull = true → denies 5)
      ∧ (s.queueFull = false → answers { s with
          lau := { s.lau with queue := s.lau.queue ++ [newSlot (.holdTake badge p.tag)] },
          pyu := { s.pyu with payment := some p, tag := p.tag, lastNewSeq := 0, refunds := s.pyu.refunds.map fun r =>
                     if r.badge = badge ∧ credit.isSome = true then { r with inUse := true } else r },
          plg := { s.plg with reserve := s.plg.reserve + 3 },
          oru := { s.oru with
            queue := s.oru.queue.map fun o =>
              if some o.number = number ∧ o.state = .waitPay then { o with paying := true } else o } })
    if target.isNone && refund.isNone then answers denied
    else if s.peerHolds badge 0 then denies 1
    else if 64 < s.plg.log.length + s.plg.reserve + 3 then denies 2
    else if target.isSome && decide (sum < price) then denies 3
    else if sum - price ≤ 65535 then starts refund false
    else if target.isNone then denies 4
    else if balance < price then denies 3
    else starts none true

/-- A record of the reader meets a payment in flight: another badge is turned away; the payment's badge does nothing in P_HOLD and
P_WRITING and is a re-tap in P_VERIFY; REMOVED ends a held payment unpaid; WRITTEN completes one whose reply is awaited; WRITE_FAILED
ends it REJECTED or leads to P_VERIFY with a re-tap window and PAY_RETAP. In P_IDLE those three are ignored (R140, R146, R154, R155,
R157). The model's choices: completion by a re-tap leaves the card sequence that STATUS shows (log 18), a WRITE sent again replaces an
unsent one (log 19) and has no deadline until it begins (log 27). Characters are gathered into records: one begins after three idle
character times, and ends at as many; a character begun too early is discarded. Each ended record is taken as the record it spells, or
discarded; where all are discarded the receiver alone moves, back in GAP, its idle counting from the last character or from the load.
The row always completes (R140, R208; it gives the characters with the idle before each: log 23). -/
def Obligations.ReaderRecordsMeetThePayment : Prop :=
  (∀ (s : State) (chars : List ReaderChar), ∃ t : State, exec (.readerRecordBad chars) s = .next t)
  ∧ ∀ s : State, s.working = true →
    let heard := s.onPyu fun u => { u with reader := match u.reader with
      | .off => .off
      | .gap since => .gap (max since (s.units - 900))
      | .record _ => .gap (s.units - 900) }
    (∀ chars, exec (.readerRecordBad chars) s = feed (((s.readerRecords chars).filterMap readerRecordOf).map readerRow) heard)
    ∧ (∀ chars, (∀ record ∈ s.readerRecords chars, readerRecordOf record = none) → exec (.readerRecordBad chars) s = .next heard)
    ∧ (∀ since c rest, s.pyu.reader = .gap since →
        let span := readerSpan (c :: rest)
        let early := s.units + 30 * c.idle < since + span + 900 ∨ c.idle < 30
        (early → rest = [] → s.readerRecords (c :: rest) = [])
        ∧ (¬ early → (∀ d ∈ rest, d.idle < 30) → s.readerRecords (c :: rest) = [(c :: rest).map fun d => (d.data, d.stopLow)]))
    ∧ (∀ chars, s.pyu.reader = .off → s.readerRecords chars = [])
    ∧ (s.Settled → s.pyu.payment = none →
        (∀ badge, exec (.readerRemoved badge) s = .next s) ∧ (∀ badge newSeq, exec (.readerWritten badge newSeq) s = .next s)
        ∧ (∀ badge rejected, exec (.readerWriteFailed badge rejected) s = .next s))
    ∧ ∀ p : Payment, s.Settled → s.pyu.payment = some p →
      let ends := fun (code : PayCode) => perform (.pyuEndUnpaid code)
      let sendsAgain := s.onPyu fun u => { u with
        payment := some { p with state := .writing, deadline := none },
        sendQueue := u.sendQueue.filter (fun r => !isWrite r) ++ [.write p.badge p.expectedSeq p.newBalance] }
      (∀ badge balance cardSeq, badge ≠ p.badge → exec (.readerPresent badge balance cardSeq) s = .next (sendSignal false s))
      ∧ (∀ balance cardSeq, p.state ≠ .verify → exec (.readerPresent p.badge balance cardSeq) s = .next s)
      ∧ (∀ balance cardSeq, p.state = .verify →
          let written := cardSeq = (p.expectedSeq + 1) % 65536 ∧ balance = p.newBalance
          let untouched := cardSeq = p.expectedSeq ∧ balance = p.oldBalance
          (written → exec (.readerPresent p.badge balance cardSeq) s = .next (react (completePayment s)))
          ∧ (¬ written → untouched → p.lapsed = true →
              exec (.readerPresent p.badge balance cardSeq) s = .next (react (ends .holdLost s)))
          ∧ (¬ written → untouched → p.lapsed = false → s.peerHolds p.badge 0 = true →
              exec (.readerPresent p.badge balance cardSeq) s = .next (react (ends .badgeBusy s)))
          ∧ (¬ written → untouched → p.lapsed = false → s.peerHolds p.badge 0 = false →
              exec (.readerPresent p.badge balance cardSeq) s = .next sendsAgain)
          ∧ (¬ written → ¬ untouched → exec (.readerPresent p.badge balance cardSeq) s
              = .next (react (ends .mismatch (postNotice .payMismatch (p.order.map Prod.fst) 0 0 0 s)))))
      ∧ (∀ badge, badge = p.badge → p.state = .hold → exec (.readerRemoved badge) s = .next (react (ends .removed s)))
      ∧ (∀ badge, ¬ (badge = p.badge ∧ p.state = .hold) → exec (.readerRemoved badge) s = .next s)
      ∧ (∀ badge newSeq, badge = p.badge → p.state ≠ .hold → exec (.readerWritten badge newSeq) s
          = .next (react (completePayment (s.onPyu fun u => { u with lastNewSeq := newSeq }))))
      ∧ (∀ badge newSeq, ¬ (badge = p.badge ∧ p.state ≠ .hold) → exec (.readerWritten badge newSeq) s = .next s)
      ∧ (p.state ≠ .hold → exec (.readerWriteFailed p.badge true) s = .next (react (ends .rejected s)))
      ∧ (p.state = .writing → exec (.readerWriteFailed p.badge false) s = .next (postNotice .payRetap (p.order.map Prod.fst) 0 0 0
          (s.onPyu fun u => { u with
            payment := some { p with state := .verify, deadline := some (s.timeBase + s.conf.retapWindowS * 1000) } })))
      ∧ (p.state = .verify → exec (.readerWriteFailed p.badge false) s = .next s)
      ∧ (∀ badge rejected, ¬ (badge = p.badge ∧ p.state ≠ .hold) → exec (.readerWriteFailed badge rejected) s = .next s)

/-- How a payment ends. Unpaid: SIGNAL DENY but for REMOVED and UNRESOLVED, PAY_DENIED with the code, a HOLD FREE if the hold was
taken, the refund no longer in use, 3 of the reserve back, P_IDLE; its order can be paid again, or closes EXPIRED where its tap window
expired meanwhile. Paid, its order waiting: CREDIT_BACK for a refund used and DEBIT are appended, the refund entry is lowered, the
order is READY with its debit sequence, the reserve falls by 3 and rises by 1; an order closed meanwhile makes the price due back;
without an order CREDIT_BACK stands alone. After these HOLD FREE is offered, SIGNAL ACCEPT is sent, and ORDER_PAID is posted with the
code PAID, CLOSED or CREDIT (R127, R148, R154, R159, R163, R165). The model's choices: the DEBIT of an order closed meanwhile keeps the
payment's recipe (log 34), the Order Unit goes on after the remaining steps (log 35), and a credit-back drops every entry of amount 0
(log 60). -/
def Obligations.PaymentsEndOrComplete : Prop :=
  ∀ (s : State) (p : Payment), s.pyu.payment = some p → Numbered s →
    (∀ code : PayCode,
      let u := postNotice .payDenied (p.order.map Prod.fst)
        (match code with
          | .badgeBusy => 1 | .lineBusy => 5 | .removed => 6 | .rejected => 7 | .holdLost => 8 | .mismatch => 9 | .unresolved => 10)
        0 0 (if code = .removed ∨ code = .unresolved then s else sendSignal false s)
      let v := if p.taken then offerFrame (.holdFree p.badge) u else u
      let ended := { v with
        pyu := { v.pyu with payment := none, refunds := s.pyu.refunds.map fun r => { r with inUse := false } },
        plg := { s.plg with reserve := s.plg.reserve - 3 } }
      (p.order = none → perform (.pyuEndUnpaid code) s = (ended, []))
      ∧ ∀ number price, p.order = some (number, price) →
          let unmarked := ended.onOru fun q => { q with queue := q.queue.map fun o =>
            if o.number = number then { o with paying := false } else o }
          ((s.orderOf number).all (fun o => !o.windowExpired) = true → perform (.pyuEndUnpaid code) s = (unmarked, []))
          ∧ (∀ o, s.orderOf number = some o → o.windowExpired = true → o.state = .waitPay → o.debitSeq = none →
              perform (.pyuEndUnpaid code) s =
                (unmarked.onOru fun q => { q with queue := q.queue.filter fun x => x.number != number },
                 [.post .orderClosed (some number) 5 0 0, .oruCupPending])))
    ∧ (let t := (completePayment s).1
       let paid := p.order.any fun q => s.oru.queue.any fun o => o.number == q.1 && o.state == .waitPay
       let entry := fun (k : Nat) (kind : LogKind) (amount : Nat) (order recipe : Option Nat) (unlisted : Bool) =>
         ({ seq := (s.plg.nextSeq + k) % 65536, kind := kind, badge := p.badge, amount := amount, order := order, recipe := recipe,
            grindMode := none, credit := none, time := s.seconds, epoch := s.plg.epoch, unlisted := unlisted } : LogEntry)
       let credits := match p.refundUsed with
         | some r => [entry 0 .creditBack r none none false]
         | none => []
       let refunds := match p.refundUsed with
         | some r => creditedRefunds p.badge r s.pyu.refunds
         | none => s.pyu.refunds
       let debitSeq := (s.plg.nextSeq + credits.length) % 65536
       t.pyu.payment = none
       ∧ (∃ w : State, w.lau = s.lau ∧ w.pyu.sendQueue = s.pyu.sendQueue ∧ w.pins = s.pins ∧ w.timeBase = s.timeBase
           ∧ w.plk.mode = s.plk.mode
           ∧ t = (postNotice .orderPaid (p.order.map Prod.fst) (if p.order = none then 3 else if paid then 1 else 2) 0 0
               (sendSignal true (offerFrame (.holdFree p.badge) w))).onPyu fun u => { u with payment := none })
       ∧ (p.order = none → t.plg.log = s.plg.log ++ credits ∧ t.plg.reserve = s.plg.reserve - 3 ∧ t.pyu.refunds = refunds
           ∧ t.oru = s.oru)
       ∧ (∀ number price, p.order = some (number, price) →
           let debit := entry credits.length .debit price (some number) p.recipe false
           (paid = true → t.plg.log = s.plg.log ++ credits ++ [debit] ∧ t.plg.reserve = s.plg.reserve - 3 + 1
             ∧ t.pyu.refunds = refunds ∧ (completePayment s).2 = [.oruCupPending, .oruStart]
             ∧ t.oru = { s.oru with queue := s.oru.queue.map fun o => if o.number = number then { o with
                 badge := some p.badge, debitSeq := some debitSeq, paying := false, windowExpired := false, tapDeadline := none,
                 state := .ready } else o })
           ∧ (paid = false → t.plg.log = s.plg.log ++ credits ++ [debit,
                 entry (credits.length + 1) .refundDue price (some number) none (dueUnlisted refunds p.badge price)]
             ∧ t.plg.reserve = s.plg.reserve - 3 ∧ t.pyu.refunds = addDue refunds p.badge price s.timeBase ∧ t.oru = s.oru)))

/-- The moments of a payment: the head of the send queue begins and leaves the queue (the model's choice, log 50; a WRITE of P_WRITING
starts its reply time, log 27), the reply to a WRITE fails to come, the hold wait ends BADGE_BUSY or LINE_BUSY, a refresh of the hold is offered unless one is queued (the next due
counts from now, the model's choice, log 42), the hold lapses, and the re-tap window ends UNRESOLVED with its log entry (R142,
R150, R151, R155, R158; a refund used of 0 cu: log 61). -/
def Obligations.PaymentTimersAct : Prop :=
  ∀ s : State, s.Settled →
    (∀ r rest, s.dueReaderSend = true → s.pyu.sendQueue = r :: rest → exec .readerSendStart s = .next (s.onPyu fun u => { u with
      sendQueue := rest, lastRecord := readerOutBytes r, sendFreeAt := s.units + (readerOutBytes r).length * 300 + 900,
      payment := u.payment.map fun p => if isWrite r = true ∧ p.state = .writing
        then { p with deadline := some ((s.units + 3000 + 575) / 576 + 400) } else p }))
    ∧ ∀ p, s.pyu.payment = some p →
      (s.duePayment .writing = true → exec .writeReplyTimeout s = .next (postNotice .payRetap (p.order.map Prod.fst) 0 0 0
        (s.onPyu fun u => { u with
          payment := some { p with state := .verify, deadline := some (s.timeBase + s.conf.retapWindowS * 1000) } })))
      ∧ (s.duePayment .hold = true → exec .holdWaitTimeout s = .next (react
          (perform (.pyuEndUnpaid (if p.hold = .settled then .badgeBusy else .lineBusy)) s)))
      ∧ (s.dueRefresh = true →
          let u := s.onPyu fun v => { v with payment := some { p with refreshBase := s.timeBase } }
          exec .holdRefreshDue s = .next (if s.takeQueued p.tag = true ∨ s.queueFull = true then u
            else u.onLau fun l => { l with queue := l.queue ++ [newSlot (.holdTake p.badge p.tag)] }))
      ∧ (s.dueLapse = true → exec .holdLapse s = .next (s.onPyu fun u => { u with payment := some { p with lapsed := true } }))
      ∧ (s.duePayment .verify = true → exec .retapDeadline s = .next (react (perform (.pyuEndUnpaid .unresolved)
          (appendEntry .unresolved p.badge (orZero (p.order.map Prod.snd)) (p.order.map Prod.fst) none none p.refundUsed false s))))

/-! ### The purchase log and cleaning -/

/-- LOG_READ shows the oldest entries, up to four, and removes none; LOG_ACK removes the named entry and every older one, or is
refused BAD_SEQUENCE, and arms the watermark notice when the count falls below it (R166 to R168, R196). In START, where no
configuration gives a watermark, the count is compared with 0 and the flag stays (the model's choice, log 52). -/
def Obligations.LogIsReadAndAcknowledged : Prop :=
  ∀ s : State, s.pins.resetAsserted = false → s.plk.mode ≠ .halted →
    exec .logRead s = .next (placeReply 4#8 3 {
      state := s, result := .ok, notices := 0,
      body := field1 (min 4 s.plg.log.length) ++ (s.plg.log.take 4).flatMap logEntryBytes ++ field1 s.plg.log.length
        ++ field1 s.plg.reserve ++ field2 s.plg.nextSeq ++ field1 s.plg.epoch })
    ∧ (∀ n, (∀ e ∈ s.plg.log, e.seq ≠ n) →
        exec (.logAck n) s = .next (placeReply 5#8 5 { state := s, result := .badSequence, body := [], notices := 0 }))
    ∧ (∀ n older e rest, s.plg.log = older ++ e :: rest → (∀ d ∈ older, d.seq ≠ n) → e.seq = n →
        exec (.logAck n) s = .next (placeReply 5#8 5 {
          state := s.onPlg fun p => { p with log := rest, armed := p.armed || decide (rest.length < s.conf.watermark) },
          result := .ok, body := field1 (older.length + 1) ++ field1 rest.length, notices := 0 }))

/-- An entry leaves the log by LOG_ACK or at a power-on: every other command leaves the log or lengthens it at its tail (R164,
R167). -/
def Obligations.LogGrowsAtItsTail : Prop :=
  ∀ (c : Instr) (s t : State), exec c s = .next t →
    (∀ b, c ≠ .supplyUp b) → (∀ n, c ≠ .logAck n) → (∀ bytes, c ≠ .panelTransferInvalid bytes) →
    (∀ intact, c = .resetNAssert intact → (s.cfl.retainMark && intact) = true) →
    ∃ new, t.plg.log = s.plg.log ++ new

/-- The moments of a cleaning cycle. A start fills the cycle from the resume record or the kind that is due, wishes for the clean
slot and clears the standby mark and the standby time. A FLUSH deadline disarms its flow run, the timer of a CSOAK or DRAIN step
ends the step, a HEAT_WAIT or PROMPT that runs out aborts the cycle, and the suspend limit drops it with code 2 (R120, R174, R177,
R180 to R182, R188, R189). -/
def Obligations.CleaningTimersAct : Prop :=
  ∀ s : State, s.Settled →
    (∀ c, s.dueCycle = true →
      (match s.clc.resume with
        | some r => some { kind := r.kind, step := r.step, unitHeld := false, stretch := false, deadline := none, resuming := true }
        | none => s.nextKind.map fun k =>
            { kind := k, step := 1, unitHeld := false, stretch := false, deadline := none, resuming := false }) = some c →
      exec .cycleStart s = .next (react
        ((s.onClc fun u => { u with state := .waitSlot, cycle := some c }).onBrc fun b => { b with standby := false, standbySince := none },
         [.stuCleanWish true] ++ if s.brc.standby then [.brcHeat] else [])))
    ∧ (s.dueCycle = true → s.clc.resume.isSome = true ∨ s.nextKind.isSome = true)
    ∧ (s.dueStep = true → isFlush s.runningKind = true → armedRun s.cnu.flow = true →
        exec .flushDeadline s = .next (react (endRun .flow .disarm s)))
    ∧ (s.dueStep = true → isFlush s.runningKind = true → armedRun s.cnu.flow = false → exec .flushDeadline s = .next s)
    ∧ (∀ c, s.dueStep = true → s.clc.cycle = some c →
        let aborted := fun (u : Clc) => { u with state := .idle, cycle := none, resume := none }
        let again := fun (u : State) => if s.clc.rinseRequired then setDue .rinse u else u
        (cycleStep c = .heatWait → exec .cleanHeatWaitTimeout s = .next (react (again (s.onClc aborted),
          [.stopEvent .heatTimeout, .brcStepEnd, .stuCleanWish false, .post .cleanDone none 3 c.kind.code 6])))
        ∧ (isTimed (some (cycleStep c)) = true → exec .stepTimerExpiry s = .next (react
            (s.onClc fun u => { u with state := .run, cycle := some { c with unitHeld := false, deadline := none } },
             [.brcStepEnd, .clcStepTail])))
        ∧ (s.clc.state = .prompt → exec .promptTimeout s = .next (react
            (again (s.onClc fun u => { aborted u with held := setKindMark u.held c.kind true }),
             [.stopEvent .promptTimeout, .brcStepEnd, .stuCleanWish false, .post .cleanDone none 3 c.kind.code 13]))))
    ∧ (∀ r, s.dueSuspend = true → s.clc.resume = some r → exec .suspendLimitExpiry s = .next (react
        (s.onClc fun u => { u with state := .idle, cycle := none, resume := none },
         (if s.clc.state = .waitSlot then [.stuCleanWish false] else []) ++ [.post .cleanDone none 2 r.kind.code 0])))

/-- One flow count moves the residue; at the counts for 100 ml it returns to 0 and the water counter gains 0.1 L, which sets DESCALE
due at its threshold; one cup made advances both cup counters, which set RINSE and CLEAN due at theirs (RINSE first, log 62). The steps
of the three kinds are those of R175. GRANTED for the slot starts the cycle. A request for a step that is granted holds the unit,
drops the resume record and the resume flag (the flag: log 53), enters a stretch at its first step, and begins its work; a refused one
waits, gives way to a cup where it is interruptible, or aborts the cycle. What follows a step: the last step of the cycle completes it
with its counters and due flags, the last step of a stretch clears the rinse-required latch, and otherwise the next step is requested
(R104, R172, R173, R175, R178 to R185, R189; a mark that stands: log 48). -/
def Obligations.CleaningCountersAndSteps : Prop :=
  (cycleSteps .rinse = [.heatWait, .flush 150, .drain 5]
    ∧ cycleSteps .clean = [.prompt 1, .heatWait, .flush 100, .csoak 60, .motion 5, .flush 100, .csoak 60, .flush 200, .drain 5]
    ∧ cycleSteps .descale = [.prompt 2, .flush 200, .csoak 300, .flush 200, .csoak 300, .flush 200, .prompt 3, .flush 300, .flush 300,
        .flush 300, .drain 5])
  ∧ (∀ s : State,
    (s.clc.residue + 1 < 10 * s.conf.flowPer10ml → flowCount s = s.onClc fun c => { c with residue := c.residue + 1 })
    ∧ (10 * s.conf.flowPer10ml ≤ s.clc.residue + 1 →
        let w := min 65535 (s.clc.waterSinceDescale + 1)
        let u := s.onClc fun c => { c with residue := 0, waterSinceDescale := w }
        flowCount s = if s.clc.waterSinceDescale < 10 * s.conf.descaleThresholdL ∧ 10 * s.conf.descaleThresholdL ≤ w
          then setDue .descale u else u)
    ∧ (let r := min 65535 (s.clc.cupsSinceRinse + 1)
       let c := min 65535 (s.clc.cupsSinceClean + 1)
       let u := s.onClc fun v => { v with cupsSinceRinse := r, cupsSinceClean := c }
       let v := if s.clc.cupsSinceRinse < s.conf.rinseThreshold ∧ s.conf.rinseThreshold ≤ r then setDue .rinse u else u
       cupMade s = if s.clc.cupsSinceClean < s.conf.cleanThreshold ∧ s.conf.cleanThreshold ≤ c then setDue .clean v else v)
    ∧ (s.clc.state = .waitSlot → perform .clcGranted s = (s.onClc fun u => { u with state := .run }, [.clcRequest]))
    ∧ (s.clc.state ≠ .waitSlot → perform .clcGranted s = (s, []))
    ∧ (s.clc.cycle = none ∨ s.clc.state ≠ .run → perform .clcRequest s = (s, []))
    ∧ (∀ c, s.clc.cycle = some c → c.unitHeld = true → perform .clcRequest s = (s, []))
    ∧ (∀ k, kindMark s.clc.due k = true → setDue k s = s)
    ∧ (∀ k, kindMark s.clc.due k = false → setDue k s =
        postNotice .cleanDue none k.code 0 0 (s.onClc fun c => { c with due := setKindMark c.due k true })))
  ∧ ∀ (s : State) (c : Cycle), s.clc.state = .run → s.clc.cycle = some c → c.unitHeld = false →
    let last := match c.kind with
      | .rinse => 3
      | .clean => 9
      | .descale => 11
    let stretchEnd := (c.kind = .clean ∧ c.step = 8) ∨ (c.kind = .descale ∧ c.step = 10)
    let stretchStart := decide ((c.kind = .clean ∧ c.step = 3) ∨ (c.kind = .descale ∧ c.step = 2))
    let step := (cycleSteps c.kind).getD (c.step - 1) (.drain 5)
    let tests : List (Bool × Option Reason) := [
      (decide (s.plk.mode ≠ .serving), some .notServing), (s.grc.fault || s.brc.stuck || s.brc.overheat, some .fault),
      (!s.stu.confirmed.clean, some .noSlot), (s.brc.retained, none), (decide (s.brc.unit ≠ .idle), none), (!s.dcu.basePerm, none)]
    let granted := fun (state : CycleState) (deadline : Option Nat) => { s with
      clc := { s.clc with
        state := state, resume := none, rinseRequired := s.clc.rinseRequired || stretchStart,
        cycle := some { c with unitHeld := true, resuming := false, stretch := c.stretch || stretchStart, deadline := deadline } },
      brc := { s.brc with
        unit := .step, stepWaiting := false,
        step := some { kind := step, strokesLeft := match step with | .motion n => n | _ => 0 } } }
    let waiting := s.onBrc fun b => { b with stepWaiting := true }
    (tests.find? (·.1) = none → perform .clcRequest s = match step with
      | .heatWait => (phaseSet .idle (granted .run (some (s.timeBase + s.conf.heatWaitS * 1000))), [.brcServeStep])
      | .flush _ | .csoak _ | .drain _ => (granted .run c.deadline, [.brcServeStep])
      | .motion _ => (phaseSet .motion (granted .run c.deadline), [.brcServeStep])
      | .prompt code => (postNotice .cleanPrompt none code 0 0
          (phaseSet .idle (granted .prompt (some (s.timeBase + s.conf.promptTimeoutMin * 60000)))), [.brcServeStep, .clcCupPending]))
    ∧ (∀ test reason, tests.find? (·.1) = some test → test.2 = some reason →
        let u := s.onClc fun u => { u with state := .idle, cycle := none, resume := none }
        perform .clcRequest s = (if s.clc.rinseRequired then setDue .rinse u else u,
          [.stuCleanWish false, .post .cleanDone none 3 c.kind.code reason.code]))
    ∧ (∀ test, tests.find? (·.1) = some test → test.2 = none →
        let cupHolds := s.brc.retained = false ∧ s.brc.unit = .cup
        (cupHolds → interruptible c = true → perform .clcRequest s = (waiting.onClc fun u => { u with
          state := .suspended, cycle := none, resume := some { kind := c.kind, step := c.step, time := s.timeBase } },
          [.stuCleanWish false]))
        ∧ (cupHolds → interruptible c = false → perform .clcRequest s = (waiting, []))
        ∧ (¬ cupHolds → perform .clcRequest s = (waiting, [.clcCupPending])))
    ∧ (c.step ≠ last → ¬ stretchEnd → perform .clcStepTail s =
      (s.onClc fun u => { u with cycle := some { c with step := c.step + 1 } }, [.clcRequest]))
    ∧ (stretchEnd → perform .clcStepTail s =
      (s.onClc fun u => { u with cycle := some { c with step := c.step + 1, stretch := false }, rinseRequired := false },
       [.brcOffer, .clcRequest]))
    ∧ (c.step = last → ∃ u : Clc, perform .clcStepTail s = ({ s with clc := u },
          (if s.clc.rinseRequired && c.kind == .rinse then [.brcOffer] else [])
            ++ [.stuCleanWish false, .post .cleanDone none 1 c.kind.code 0])
        ∧ u.state = .idle ∧ u.cycle = none ∧ u.resume = s.clc.resume ∧ u.cupsSinceRinse = 0 ∧ u.due.rinse = false
        ∧ kindMark u.due c.kind = false ∧ kindMark u.held c.kind = false
        ∧ u.cupsSinceClean = (if c.kind = .clean then 0 else s.clc.cupsSinceClean)
        ∧ u.waterSinceDescale = (if c.kind = .descale then 0 else s.clc.waterSinceDescale)
        ∧ u.residue = (if c.kind = .descale then 0 else s.clc.residue)
        ∧ u.rinseRequired = (if c.kind = .rinse then false else s.clc.rinseRequired))

/-- CLEAN_REQUEST makes a kind due and clears its held mark; CLEAN_CANCEL aborts the cycle in hand, with its stop event where a step
holds the unit; PROMPT_DONE ends a PROMPT; each is refused where there is nothing for it to do, NOT_READY in START and CONFIG_BAD in
HALTED (R173, R182, R189, R190, R196, R208). -/
def Obligations.CleaningRequestsAct : Prop :=
  ∀ s : State, s.pins.resetAsserted = false →
    let answers := fun (c : Instr) (kind : Byte) (length : Nat) (r : Result) (t : State) =>
      exec c s = .next (placeReply kind (length + 3) { state := t, result := r, body := [], notices := 0 })
    (∀ kind, s.plk.mode = .halted → answers (.cleanRequest kind) 8#8 1 .configBad s)
    ∧ (s.plk.mode = .halted → answers .cleanCancel 9#8 0 .configBad s ∧ answers .promptDone 10#8 0 .configBad s)
    ∧ (∀ kind, s.plk.mode = .start → answers (.cleanRequest kind) 8#8 1 .notReady s)
    ∧ (s.plk.mode = .start → answers .cleanCancel 9#8 0 .notReady s ∧ answers .promptDone 10#8 0 .notReady s)
    ∧ (s.plk.mode = .serving ∨ s.plk.mode = .service →
        (∀ kind : Byte, kind.toNat = 0 ∨ 3 < kind.toNat → answers (.cleanRequest kind) 8#8 1 .badRequest s)
        ∧ (∀ (kind : Byte) (k : CleanKind), k.code = kind.toNat → answers (.cleanRequest kind) 8#8 1 .ok (react
            ((if kindMark s.clc.due k then s
              else postNotice .cleanDue none k.code 0 0 (s.onClc fun u => { u with due := setKindMark u.due k true })).onClc
                fun u => { u with held := setKindMark u.held k false }, [])))
        ∧ (s.clc.state = .idle → answers .cleanCancel 9#8 0 .noCycle s)
        ∧ (∀ k, s.clc.state ≠ .idle → s.heldKind = some k → answers .cleanCancel 9#8 0 .ok (react
            (let u := s.onClc fun u => { u with state := .idle, cycle := none, resume := none, held := setKindMark u.held k true }
             if s.clc.rinseRequired then setDue .rinse u else u,
             (if s.runningStep.isSome then [.stopEvent .cancelled, .brcStepEnd] else [])
               ++ (if s.clc.state = .suspended then [] else [.stuCleanWish false]) ++ [.post .cleanDone none 3 k.code 12])))
        ∧ (s.clc.state ≠ .prompt → answers .promptDone 10#8 0 .noPrompt s)
        ∧ (∀ c, s.clc.state = .prompt → s.clc.cycle = some c → answers .promptDone 10#8 0 .ok (react
            (s.onClc fun u => { u with state := .run, cycle := some { c with unitHeld := false, deadline := none } },
             [.brcStepEnd, .clcStepTail]))))

/-! ### The panel link -/

/-- Requests are ignored while RESET_N is asserted, refused by station mode as R196 gives, and otherwise answered in the reply slot,
whose unread reply is discarded and marks the new one (R192, R193, R196, R202). -/
def Obligations.RequestsAreAdmittedByMode : Prop :=
  ∀ (s : State) (c : Instr) (kind : Nat) (body : List Byte), panelRequest c = some (kind, body) →
    let refused := fun (r : Result) =>
      exec c s = .next (placeReply (byteOf kind) (body.length + 3) { state := s, result := r, body := [], notices := 0 })
    (s.pins.resetAsserted = true → exec c s = .next s)
    ∧ (s.pins.resetAsserted = false →
        (s.plk.mode = .halted → kind ≠ 1 → kind ≠ 15 → refused .configBad)
        ∧ (s.plk.mode = .start → 8 ≤ kind → kind ≤ 14 → refused .notReady)
        ∧ (s.plk.mode = .serving → kind = 12 ∨ kind = 13 → refused .notService)
        ∧ ∃ t r, exec c s = .next t ∧ t.plk.reply = some r ∧ r.kind = byteOf kind ∧ r.lost = s.plk.reply.isSome
            ∧ t.rdyLine = true)

/-- STATUS and PART_ID are answered in every mode, STATUS with CONFIG_BAD in HALTED and a body of 531 bytes; NOTICE_READ hands over
up to four notices. A READ_REPLY with length 0 and sum 0 shifts the waiting reply out, or one of kind NONE, and empties the slot
once all of its bytes are clocked; with another it shifts out the idle value (R192, R193, R195, R197, R208; the idle value during the
three request bytes: log 63). -/
def Obligations.PanelReadsAreAnswered : Prop :=
  ∀ s : State, s.pins.resetAsserted = false →
    exec .status s = .next (placeReply 1#8 3
      { state := s, result := if s.plk.mode = .halted then .configBad else .ok, body := s.statusBody, notices := 0 })
    ∧ s.statusBody.length = 531
    ∧ exec .partId s = .next (placeReply 15#8 3
        { state := s, result := .ok, body := [0#8, 226#8] ++ field1 s.conf.version ++ field1 s.conf.station, notices := 0 })
    ∧ (s.plk.mode ≠ .halted → exec .noticeRead s = .next (placeReply 3#8 3 {
        state := s.onPlk fun p => { p with notices := p.notices.drop 4, noticesLost := false }, result := .ok,
        body := field1 (min 4 s.plk.notices.length) ++ (s.plk.notices.take 4).flatMap noticeBytes
          ++ field1 (s.plk.notices.length - 4) ++ field1 (flagCode s.plk.noticesLost),
        notices := min 4 s.plk.notices.length }))
    ∧ ∀ (length check : Byte) (clocked : Nat),
        let bytes := replyBytes (s.plk.reply.getD { kind := 0#8, result := .ok, lost := false, body := [], notices := 0 })
        (length = 0#8 → check = 0xFE#8 → exec (.readReply length check clocked) s = .next (s.onPlk fun p => { p with
          miso := List.replicate 3 0xFF#8 ++ bytes.take clocked ++ List.replicate (clocked - bytes.length) 0xFF#8,
          reply := if bytes.length ≤ clocked then none else p.reply }))
        ∧ (length ≠ 0#8 ∨ check ≠ 0xFE#8 → exec (.readReply length check clocked) s = .next
            (s.onPlk fun p => { p with miso := List.replicate (3 + clocked) 0xFF#8 }))

/-- SERVICE_ENTER is refused BUSY while an order, a step or a recovery eject runs, and otherwise changes the mode to SERVICE; in
SERVICE it changes nothing. SERVICE_LEAVE stops what service drove and returns to SERVING. SERVICE_RESET clears the latches whose
cause is gone, starts the loss monitors anew, and tells which latches remain (R67, R83, R97, R106, R118, R199 to R201). -/
def Obligations.ServiceModeIsEnteredLeftAndReset : Prop :=
  ∀ s : State, s.pins.resetAsserted = false →
    let answers := fun (c : Instr) (kind : Byte) (r : Result) (t : State) (body : List Byte) =>
      exec c s = .next (placeReply kind 3 { state := t, result := r, body := body, notices := 0 })
    (s.plk.mode = .service → answers .serviceEnter 11#8 .ok s [])
    ∧ (s.plk.mode = .serving →
        let recovering := s.brc.unit = .recovery
        (s.hasRunning = true → answers .serviceEnter 11#8 .busy s [1#8])
        ∧ (s.hasRunning = false → s.stepRunning = true → answers .serviceEnter 11#8 .busy s [2#8])
        ∧ (s.hasRunning = false → s.stepRunning = false → recovering → answers .serviceEnter 11#8 .busy s [3#8])
        ∧ (s.hasRunning = false → s.stepRunning = false → ¬ recovering → answers .serviceEnter 11#8 .ok (react
            ((s.onBrc fun b => { b with standby := false, standbySince := none }).onPlk fun p => { p with mode := .service },
             (if s.brc.standby then [.brcHeat] else []) ++ [.stuLower, .stuRise .base, .brcHeat])) []))
    ∧ (s.plk.mode = .service →
        (let u := phaseSet .idle (((setGrinder false s).onDcu fun d =>
            { d with brewer := .stop, holds := HoldMarks.clear, serviceGrind := false }).onBrc fun b =>
            { b with move := none, position := s.positionNow })
         let v := (heatLoad u).onGrc fun g => { g with serviceWish := false }
         answers .serviceLeave 12#8 .ok (react (phaseSet .idle (v.onPlk fun p => { p with mode := .serving }),
           (if s.grc.serviceWish then [.stuGrindWish false] else []) ++ [.stuLower, .stuRise .base, .brcHeat, .oruStart])) [])
        ∧ (let stuck := s.brc.stuck && s.pins.brTop && s.pins.brBot
           let overheat := s.brc.overheat && s.pins.boilOvht
           let cleared := fun (driven : Bool) (k : Counter) => if k.latch then { k with
             latch := false, monitor := if driven then .spinUp s.timeBase else .off } else k
           let t := react ({ s with
             cnu := { grind := cleared s.dcu.grinder s.cnu.grind, flow := cleared (decide (0 < s.dcu.pump)) s.cnu.flow, skips := 0 },
             grc := { s.grc with fault := false, overloads := 0 },
             brc := { s.brc with stuck := stuck, overheat := overheat } }, [.brcHeat, .brcRegulator, .oruStart])
           answers .serviceReset 13#8 .ok t (field1 (flagCode t.brc.stuck + 2 * flagCode t.brc.overheat))))

/-- A transfer judged by its bytes: no bytes, or RESET_N asserted, and nothing changes; a message with a sum other than 0 or a
length other than stated is refused BAD_CHECK, one whose kind or body length is no request BAD_REQUEST; a well-formed one is that
request, and one that begins as READ_REPLY is a READ_REPLY (R192, R193, R202; log 24). -/
def Obligations.PanelTransfersAreJudged : Prop :=
  ∀ (s : State) (bytes : List Byte),
    (bytes = [] ∨ s.pins.resetAsserted = true → exec (.panelTransferInvalid bytes) s = .next s)
    ∧ (s.pins.resetAsserted = false → ∀ kind rest, bytes = kind :: rest → kind ≠ 2#8 →
        let refused := fun (r : Result) => exec (.panelTransferInvalid bytes) s
          = .next (placeReply kind bytes.length { state := s, result := r, body := [], notices := 0 })
        (checkedRequest bytes = false → refused .badCheck)
        ∧ (checkedRequest bytes = true → requestBodyLength kind.toNat ≠ some (bytes.getD 1 0#8).toNat → refused .badRequest))
    ∧ (∀ c kind body, c.wf = true → panelRequest c = some (kind, body) →
        exec (.panelTransferInvalid (requestMessage kind body)) s = exec c s)
    ∧ ∀ length check (after : List Byte), exec (.panelTransferInvalid ([2#8, length, check] ++ after)) s
        = exec (.readReply length check after.length) s

/-! ### Invariants and encodings -/

/-- A frame is read as it was sent: the body has the length of its kind and spells the frame's fields, every field at every value;
and taken character by character from SYNC, the frame that another station sends is delivered as that station's frame. On the line
it is 14 low bits, 2 high bits and 11 bits for each byte: a low start bit, the data from bit 0 up, the flag, which only the header
has, and a high stop bit; SL_DE is asserted and SL_TX low for its low bits alone (R1 to R5, R8 to R10, R207). -/
def Obligations.FramesAreReadAsTheyWereSent : Prop :=
  ∀ f : Frame, f.wf = true →
    (∀ n, (frameBits n f).length = 16 + 11 * (frameBytes n f).length
      ∧ (∀ i, i < 16 → (frameBits n f)[i]? = some (decide (14 ≤ i)))
      ∧ (∀ k b, (frameBytes n f)[k]? = some b →
          (frameBits n f)[16 + 11 * k]? = some false
          ∧ (∀ i, i < 8 → (frameBits n f)[16 + 11 * k + 1 + i]? = some (b.getLsbD i))
          ∧ (frameBits n f)[16 + 11 * k + 9]? = some (decide (k = 0)) ∧ (frameBits n f)[16 + 11 * k + 10]? = some true))
    ∧ (∀ s : State, (s.lau.queue.findSome? TxSlot.sent).map Sent.frame = some f →
        s.slDeLine = ((frameBits s.conf.station f)[s.lau.txBit]? == some false))
    ∧ (∀ s : State, s.transmitting = false → s.slDeLine = false)
    ∧ (∀ s : State, s.slTxLow = s.slDeLine ∧ s.slRxLow = (s.pins.lineLow || s.slDeLine))
    ∧ (frameBody f).length = frameKindLength (frameKind f) ∧ frameOfBody (frameKind f) (frameBody f) = some f
    ∧ ∀ (n : Nat) (s : State), 1 ≤ n → n ≤ 15 → n ≠ s.conf.station → s.working = true → s.Settled →
        (∃ w, s.lau.receiver = .sync w) → feed (frameRows n f) s = exec (deliveredRow n f) s

/-- The money law holds after every step: the log count plus the reserve never exceeds 64, the reserve is 3 for a payment in flight
and 1 for each open debited order, and the queue holds at most 4 records with distinct numbers; the next order number stays 1 to 255
and the next log sequence 0 to 65535 (R122, R123, R164, R165). -/
def Obligations.MoneyLawIsKept : Prop :=
  ∀ s t : State, step s = .next t → (Ledger s → Ledger t) ∧ (Numbered s → Numbered t)

/-- The interlocks of the drive channels and the inertness of an unloaded or halted part hold after every step (R56 to R60, R64, R65,
R138, R198, R202, R203). -/
def Obligations.InterlocksAreKept : Prop :=
  ∀ s t : State, Interlocks s → Inert s → step s = .next t → Interlocks t ∧ Inert t


end
end

