-- ==== Sys2Proof/Laws/Actions.lean ====
section
/-! SUPPORT. What one action can do: a report is performed or, a stop event within the reporting of another, put off; what every
report keeps, an action keeps. -/

namespace Sys2Proof.Machine

/-- Taking a report performs it or leaves the state as it is. -/
theorem nextActs_state (a : Act) (rest : List Act) (s : State) :
    (nextActs a rest s).2 = s ∨ (nextActs a rest s).2 = (perform a s).1 := by
  unfold nextActs
  split
  · split
    · exact .inl rfl
    · exact .inr rfl
  · exact .inr rfl

/-- A report other than a stop event is performed before the rest. -/
theorem nextActs_report {a : Act} (h : ∀ c, a ≠ .stopEvent c) (rest : List Act) (s : State) :
    nextActs a rest s = ((perform a s).2 ++ rest, (perform a s).1) := by
  unfold nextActs
  split
  · exact absurd rfl (h _)
  · rfl

/-- A stop event is performed at once where none is being reported. -/
theorem nextActs_stop (c : Reason) {rest : List Act} (h : .stopOver ∉ rest) (s : State) :
    nextActs (.stopEvent c) rest s = ((stopEvent c s).2 ++ rest, stopLevels s) := by
  simp only [nextActs, List.contains_iff_mem, h, if_false]
  rfl

/-- A stop event that is put off is the only report added. -/
theorem mem_deferStop {c : Reason} {b : Act} : ∀ {l : List Act}, b ∈ deferStop c l → b = .stopEvent c ∨ b ∈ l := by
  have after : ∀ {l : List Act}, b ∈ afterStops c l → b = .stopEvent c ∨ b ∈ l := by
    intro l
    induction l with
    | nil => simp [afterStops]
    | cons a rest ih =>
      unfold afterStops
      split
      · rename_i heq
        obtain ⟨rfl, rfl⟩ := List.cons.inj heq
        simp only [List.mem_cons]
        rintro (h | h)
        · exact .inr (.inl h)
        · exact (ih h).imp id .inr
      · simp
  intro l
  induction l with
  | nil => simp [deferStop]
  | cons a rest ih =>
    unfold deferStop
    split
    · contradiction
    · rename_i heq
      obtain ⟨rfl, rfl⟩ := List.cons.inj heq
      simp only [List.mem_cons]
      rintro (h | h)
      · exact .inr (.inl h)
      · exact (after h).imp id .inr
    · rename_i heq
      obtain ⟨rfl, rfl⟩ := List.cons.inj heq
      simp only [List.mem_cons]
      rintro (h | h)
      · exact .inr (.inl h)
      · exact (ih h).imp id .inr

/-- What every report keeps, a run of reports keeps. -/
theorem runActs_keeps (P : State → Prop) (h : ∀ a s, P s → P (perform a s).1) :
    ∀ (n : Nat) (acts : List Act) (s : State), P s → P (runActs n acts s)
  | 0, _, _, hs => by simpa [runActs] using hs
  | _ + 1, [], _, hs => by simpa [runActs] using hs
  | n + 1, a :: rest, s, hs => by
    simp only [runActs]
    refine runActs_keeps P h n _ _ ?_
    rcases nextActs_state a rest s with e | e <;> rw [e]
    · exact hs
    · exact h a s hs

/-- What every report keeps, an action keeps. -/
theorem react_keeps (P : State → Prop) (h : ∀ a s, P s → P (perform a s).1) (e : Eff) (he : P e.1) : P (react e) := by
  unfold react
  split <;> exact runActs_keeps P h _ _ _ he

/-- Reports that do nothing leave the state. -/
theorem runActs_idle {s : State} : ∀ (n : Nat) (l : List Act), (∀ a ∈ l, perform a s = (s, [])) → runActs n l s = s
  | 0, _, _ => rfl
  | _ + 1, [], _ => rfl
  | n + 1, a :: rest, h => by
    have ha := h a (List.mem_cons_self ..)
    have hn : ∀ c, a ≠ .stopEvent c := by
      rintro c rfl
      exact absurd (congrArg Prod.snd ha) (by simp [perform, stopEvent])
    simp only [runActs, nextActs_report hn, ha, List.nil_append]
    exact runActs_idle n rest fun b hb => h b (List.mem_cons_of_mem _ hb)

end Sys2Proof.Machine
end

