-- ==== Sys2Proof/Laws/State.lean ====
section
/-! SUPPORT. What each block update does to each field of the state. -/

namespace Sys2Proof.Machine

variable (s : State)

/-! ### The update of `pins` -/

@[simp] theorem onPins_pins (f : Pins → Pins) : (s.onPins f).pins = f s.pins := rfl
@[simp] theorem onPins_lau (f : Pins → Pins) : (s.onPins f).lau = s.lau := rfl
@[simp] theorem onPins_stu (f : Pins → Pins) : (s.onPins f).stu = s.stu := rfl
@[simp] theorem onPins_dcu (f : Pins → Pins) : (s.onPins f).dcu = s.dcu := rfl
@[simp] theorem onPins_cnu (f : Pins → Pins) : (s.onPins f).cnu = s.cnu := rfl
@[simp] theorem onPins_grc (f : Pins → Pins) : (s.onPins f).grc = s.grc := rfl
@[simp] theorem onPins_brc (f : Pins → Pins) : (s.onPins f).brc = s.brc := rfl
@[simp] theorem onPins_oru (f : Pins → Pins) : (s.onPins f).oru = s.oru := rfl
@[simp] theorem onPins_pyu (f : Pins → Pins) : (s.onPins f).pyu = s.pyu := rfl
@[simp] theorem onPins_plg (f : Pins → Pins) : (s.onPins f).plg = s.plg := rfl
@[simp] theorem onPins_clc (f : Pins → Pins) : (s.onPins f).clc = s.clc := rfl
@[simp] theorem onPins_plk (f : Pins → Pins) : (s.onPins f).plk = s.plk := rfl
@[simp] theorem onPins_cfl (f : Pins → Pins) : (s.onPins f).cfl = s.cfl := rfl
@[simp] theorem onPins_timeBase (f : Pins → Pins) : (s.onPins f).timeBase = s.timeBase := rfl
@[simp] theorem onPins_subMs (f : Pins → Pins) : (s.onPins f).subMs = s.subMs := rfl
@[simp] theorem onPins_pending (f : Pins → Pins) : (s.onPins f).pending = s.pending := rfl

/-! ### The update of `lau` -/

@[simp] theorem onLau_pins (f : Lau → Lau) : (s.onLau f).pins = s.pins := rfl
@[simp] theorem onLau_lau (f : Lau → Lau) : (s.onLau f).lau = f s.lau := rfl
@[simp] theorem onLau_stu (f : Lau → Lau) : (s.onLau f).stu = s.stu := rfl
@[simp] theorem onLau_dcu (f : Lau → Lau) : (s.onLau f).dcu = s.dcu := rfl
@[simp] theorem onLau_cnu (f : Lau → Lau) : (s.onLau f).cnu = s.cnu := rfl
@[simp] theorem onLau_grc (f : Lau → Lau) : (s.onLau f).grc = s.grc := rfl
@[simp] theorem onLau_brc (f : Lau → Lau) : (s.onLau f).brc = s.brc := rfl
@[simp] theorem onLau_oru (f : Lau → Lau) : (s.onLau f).oru = s.oru := rfl
@[simp] theorem onLau_pyu (f : Lau → Lau) : (s.onLau f).pyu = s.pyu := rfl
@[simp] theorem onLau_plg (f : Lau → Lau) : (s.onLau f).plg = s.plg := rfl
@[simp] theorem onLau_clc (f : Lau → Lau) : (s.onLau f).clc = s.clc := rfl
@[simp] theorem onLau_plk (f : Lau → Lau) : (s.onLau f).plk = s.plk := rfl
@[simp] theorem onLau_cfl (f : Lau → Lau) : (s.onLau f).cfl = s.cfl := rfl
@[simp] theorem onLau_timeBase (f : Lau → Lau) : (s.onLau f).timeBase = s.timeBase := rfl
@[simp] theorem onLau_subMs (f : Lau → Lau) : (s.onLau f).subMs = s.subMs := rfl
@[simp] theorem onLau_pending (f : Lau → Lau) : (s.onLau f).pending = s.pending := rfl

/-! ### The update of `stu` -/

@[simp] theorem onStu_pins (f : Stu → Stu) : (s.onStu f).pins = s.pins := rfl
@[simp] theorem onStu_lau (f : Stu → Stu) : (s.onStu f).lau = s.lau := rfl
@[simp] theorem onStu_stu (f : Stu → Stu) : (s.onStu f).stu = f s.stu := rfl
@[simp] theorem onStu_dcu (f : Stu → Stu) : (s.onStu f).dcu = s.dcu := rfl
@[simp] theorem onStu_cnu (f : Stu → Stu) : (s.onStu f).cnu = s.cnu := rfl
@[simp] theorem onStu_grc (f : Stu → Stu) : (s.onStu f).grc = s.grc := rfl
@[simp] theorem onStu_brc (f : Stu → Stu) : (s.onStu f).brc = s.brc := rfl
@[simp] theorem onStu_oru (f : Stu → Stu) : (s.onStu f).oru = s.oru := rfl
@[simp] theorem onStu_pyu (f : Stu → Stu) : (s.onStu f).pyu = s.pyu := rfl
@[simp] theorem onStu_plg (f : Stu → Stu) : (s.onStu f).plg = s.plg := rfl
@[simp] theorem onStu_clc (f : Stu → Stu) : (s.onStu f).clc = s.clc := rfl
@[simp] theorem onStu_plk (f : Stu → Stu) : (s.onStu f).plk = s.plk := rfl
@[simp] theorem onStu_cfl (f : Stu → Stu) : (s.onStu f).cfl = s.cfl := rfl
@[simp] theorem onStu_timeBase (f : Stu → Stu) : (s.onStu f).timeBase = s.timeBase := rfl
@[simp] theorem onStu_subMs (f : Stu → Stu) : (s.onStu f).subMs = s.subMs := rfl
@[simp] theorem onStu_pending (f : Stu → Stu) : (s.onStu f).pending = s.pending := rfl

/-! ### The update of `dcu` -/

@[simp] theorem onDcu_pins (f : Dcu → Dcu) : (s.onDcu f).pins = s.pins := rfl
@[simp] theorem onDcu_lau (f : Dcu → Dcu) : (s.onDcu f).lau = s.lau := rfl
@[simp] theorem onDcu_stu (f : Dcu → Dcu) : (s.onDcu f).stu = s.stu := rfl
@[simp] theorem onDcu_dcu (f : Dcu → Dcu) : (s.onDcu f).dcu = f s.dcu := rfl
@[simp] theorem onDcu_cnu (f : Dcu → Dcu) : (s.onDcu f).cnu = s.cnu := rfl
@[simp] theorem onDcu_grc (f : Dcu → Dcu) : (s.onDcu f).grc = s.grc := rfl
@[simp] theorem onDcu_brc (f : Dcu → Dcu) : (s.onDcu f).brc = s.brc := rfl
@[simp] theorem onDcu_oru (f : Dcu → Dcu) : (s.onDcu f).oru = s.oru := rfl
@[simp] theorem onDcu_pyu (f : Dcu → Dcu) : (s.onDcu f).pyu = s.pyu := rfl
@[simp] theorem onDcu_plg (f : Dcu → Dcu) : (s.onDcu f).plg = s.plg := rfl
@[simp] theorem onDcu_clc (f : Dcu → Dcu) : (s.onDcu f).clc = s.clc := rfl
@[simp] theorem onDcu_plk (f : Dcu → Dcu) : (s.onDcu f).plk = s.plk := rfl
@[simp] theorem onDcu_cfl (f : Dcu → Dcu) : (s.onDcu f).cfl = s.cfl := rfl
@[simp] theorem onDcu_timeBase (f : Dcu → Dcu) : (s.onDcu f).timeBase = s.timeBase := rfl
@[simp] theorem onDcu_subMs (f : Dcu → Dcu) : (s.onDcu f).subMs = s.subMs := rfl
@[simp] theorem onDcu_pending (f : Dcu → Dcu) : (s.onDcu f).pending = s.pending := rfl

/-! ### The update of `cnu` -/

@[simp] theorem onCnu_pins (f : Cnu → Cnu) : (s.onCnu f).pins = s.pins := rfl
@[simp] theorem onCnu_lau (f : Cnu → Cnu) : (s.onCnu f).lau = s.lau := rfl
@[simp] theorem onCnu_stu (f : Cnu → Cnu) : (s.onCnu f).stu = s.stu := rfl
@[simp] theorem onCnu_dcu (f : Cnu → Cnu) : (s.onCnu f).dcu = s.dcu := rfl
@[simp] theorem onCnu_cnu (f : Cnu → Cnu) : (s.onCnu f).cnu = f s.cnu := rfl
@[simp] theorem onCnu_grc (f : Cnu → Cnu) : (s.onCnu f).grc = s.grc := rfl
@[simp] theorem onCnu_brc (f : Cnu → Cnu) : (s.onCnu f).brc = s.brc := rfl
@[simp] theorem onCnu_oru (f : Cnu → Cnu) : (s.onCnu f).oru = s.oru := rfl
@[simp] theorem onCnu_pyu (f : Cnu → Cnu) : (s.onCnu f).pyu = s.pyu := rfl
@[simp] theorem onCnu_plg (f : Cnu → Cnu) : (s.onCnu f).plg = s.plg := rfl
@[simp] theorem onCnu_clc (f : Cnu → Cnu) : (s.onCnu f).clc = s.clc := rfl
@[simp] theorem onCnu_plk (f : Cnu → Cnu) : (s.onCnu f).plk = s.plk := rfl
@[simp] theorem onCnu_cfl (f : Cnu → Cnu) : (s.onCnu f).cfl = s.cfl := rfl
@[simp] theorem onCnu_timeBase (f : Cnu → Cnu) : (s.onCnu f).timeBase = s.timeBase := rfl
@[simp] theorem onCnu_subMs (f : Cnu → Cnu) : (s.onCnu f).subMs = s.subMs := rfl
@[simp] theorem onCnu_pending (f : Cnu → Cnu) : (s.onCnu f).pending = s.pending := rfl

/-! ### The update of `grc` -/

@[simp] theorem onGrc_pins (f : Grc → Grc) : (s.onGrc f).pins = s.pins := rfl
@[simp] theorem onGrc_lau (f : Grc → Grc) : (s.onGrc f).lau = s.lau := rfl
@[simp] theorem onGrc_stu (f : Grc → Grc) : (s.onGrc f).stu = s.stu := rfl
@[simp] theorem onGrc_dcu (f : Grc → Grc) : (s.onGrc f).dcu = s.dcu := rfl
@[simp] theorem onGrc_cnu (f : Grc → Grc) : (s.onGrc f).cnu = s.cnu := rfl
@[simp] theorem onGrc_grc (f : Grc → Grc) : (s.onGrc f).grc = f s.grc := rfl
@[simp] theorem onGrc_brc (f : Grc → Grc) : (s.onGrc f).brc = s.brc := rfl
@[simp] theorem onGrc_oru (f : Grc → Grc) : (s.onGrc f).oru = s.oru := rfl
@[simp] theorem onGrc_pyu (f : Grc → Grc) : (s.onGrc f).pyu = s.pyu := rfl
@[simp] theorem onGrc_plg (f : Grc → Grc) : (s.onGrc f).plg = s.plg := rfl
@[simp] theorem onGrc_clc (f : Grc → Grc) : (s.onGrc f).clc = s.clc := rfl
@[simp] theorem onGrc_plk (f : Grc → Grc) : (s.onGrc f).plk = s.plk := rfl
@[simp] theorem onGrc_cfl (f : Grc → Grc) : (s.onGrc f).cfl = s.cfl := rfl
@[simp] theorem onGrc_timeBase (f : Grc → Grc) : (s.onGrc f).timeBase = s.timeBase := rfl
@[simp] theorem onGrc_subMs (f : Grc → Grc) : (s.onGrc f).subMs = s.subMs := rfl
@[simp] theorem onGrc_pending (f : Grc → Grc) : (s.onGrc f).pending = s.pending := rfl

/-! ### The update of `brc` -/

@[simp] theorem onBrc_pins (f : Brc → Brc) : (s.onBrc f).pins = s.pins := rfl
@[simp] theorem onBrc_lau (f : Brc → Brc) : (s.onBrc f).lau = s.lau := rfl
@[simp] theorem onBrc_stu (f : Brc → Brc) : (s.onBrc f).stu = s.stu := rfl
@[simp] theorem onBrc_dcu (f : Brc → Brc) : (s.onBrc f).dcu = s.dcu := rfl
@[simp] theorem onBrc_cnu (f : Brc → Brc) : (s.onBrc f).cnu = s.cnu := rfl
@[simp] theorem onBrc_grc (f : Brc → Brc) : (s.onBrc f).grc = s.grc := rfl
@[simp] theorem onBrc_brc (f : Brc → Brc) : (s.onBrc f).brc = f s.brc := rfl
@[simp] theorem onBrc_oru (f : Brc → Brc) : (s.onBrc f).oru = s.oru := rfl
@[simp] theorem onBrc_pyu (f : Brc → Brc) : (s.onBrc f).pyu = s.pyu := rfl
@[simp] theorem onBrc_plg (f : Brc → Brc) : (s.onBrc f).plg = s.plg := rfl
@[simp] theorem onBrc_clc (f : Brc → Brc) : (s.onBrc f).clc = s.clc := rfl
@[simp] theorem onBrc_plk (f : Brc → Brc) : (s.onBrc f).plk = s.plk := rfl
@[simp] theorem onBrc_cfl (f : Brc → Brc) : (s.onBrc f).cfl = s.cfl := rfl
@[simp] theorem onBrc_timeBase (f : Brc → Brc) : (s.onBrc f).timeBase = s.timeBase := rfl
@[simp] theorem onBrc_subMs (f : Brc → Brc) : (s.onBrc f).subMs = s.subMs := rfl
@[simp] theorem onBrc_pending (f : Brc → Brc) : (s.onBrc f).pending = s.pending := rfl

/-! ### The update of `oru` -/

@[simp] theorem onOru_pins (f : Oru → Oru) : (s.onOru f).pins = s.pins := rfl
@[simp] theorem onOru_lau (f : Oru → Oru) : (s.onOru f).lau = s.lau := rfl
@[simp] theorem onOru_stu (f : Oru → Oru) : (s.onOru f).stu = s.stu := rfl
@[simp] theorem onOru_dcu (f : Oru → Oru) : (s.onOru f).dcu = s.dcu := rfl
@[simp] theorem onOru_cnu (f : Oru → Oru) : (s.onOru f).cnu = s.cnu := rfl
@[simp] theorem onOru_grc (f : Oru → Oru) : (s.onOru f).grc = s.grc := rfl
@[simp] theorem onOru_brc (f : Oru → Oru) : (s.onOru f).brc = s.brc := rfl
@[simp] theorem onOru_oru (f : Oru → Oru) : (s.onOru f).oru = f s.oru := rfl
@[simp] theorem onOru_pyu (f : Oru → Oru) : (s.onOru f).pyu = s.pyu := rfl
@[simp] theorem onOru_plg (f : Oru → Oru) : (s.onOru f).plg = s.plg := rfl
@[simp] theorem onOru_clc (f : Oru → Oru) : (s.onOru f).clc = s.clc := rfl
@[simp] theorem onOru_plk (f : Oru → Oru) : (s.onOru f).plk = s.plk := rfl
@[simp] theorem onOru_cfl (f : Oru → Oru) : (s.onOru f).cfl = s.cfl := rfl
@[simp] theorem onOru_timeBase (f : Oru → Oru) : (s.onOru f).timeBase = s.timeBase := rfl
@[simp] theorem onOru_subMs (f : Oru → Oru) : (s.onOru f).subMs = s.subMs := rfl
@[simp] theorem onOru_pending (f : Oru → Oru) : (s.onOru f).pending = s.pending := rfl

/-! ### The update of `pyu` -/

@[simp] theorem onPyu_pins (f : Pyu → Pyu) : (s.onPyu f).pins = s.pins := rfl
@[simp] theorem onPyu_lau (f : Pyu → Pyu) : (s.onPyu f).lau = s.lau := rfl
@[simp] theorem onPyu_stu (f : Pyu → Pyu) : (s.onPyu f).stu = s.stu := rfl
@[simp] theorem onPyu_dcu (f : Pyu → Pyu) : (s.onPyu f).dcu = s.dcu := rfl
@[simp] theorem onPyu_cnu (f : Pyu → Pyu) : (s.onPyu f).cnu = s.cnu := rfl
@[simp] theorem onPyu_grc (f : Pyu → Pyu) : (s.onPyu f).grc = s.grc := rfl
@[simp] theorem onPyu_brc (f : Pyu → Pyu) : (s.onPyu f).brc = s.brc := rfl
@[simp] theorem onPyu_oru (f : Pyu → Pyu) : (s.onPyu f).oru = s.oru := rfl
@[simp] theorem onPyu_pyu (f : Pyu → Pyu) : (s.onPyu f).pyu = f s.pyu := rfl
@[simp] theorem onPyu_plg (f : Pyu → Pyu) : (s.onPyu f).plg = s.plg := rfl
@[simp] theorem onPyu_clc (f : Pyu → Pyu) : (s.onPyu f).clc = s.clc := rfl
@[simp] theorem onPyu_plk (f : Pyu → Pyu) : (s.onPyu f).plk = s.plk := rfl
@[simp] theorem onPyu_cfl (f : Pyu → Pyu) : (s.onPyu f).cfl = s.cfl := rfl
@[simp] theorem onPyu_timeBase (f : Pyu → Pyu) : (s.onPyu f).timeBase = s.timeBase := rfl
@[simp] theorem onPyu_subMs (f : Pyu → Pyu) : (s.onPyu f).subMs = s.subMs := rfl
@[simp] theorem onPyu_pending (f : Pyu → Pyu) : (s.onPyu f).pending = s.pending := rfl

/-! ### The update of `plg` -/

@[simp] theorem onPlg_pins (f : Plg → Plg) : (s.onPlg f).pins = s.pins := rfl
@[simp] theorem onPlg_lau (f : Plg → Plg) : (s.onPlg f).lau = s.lau := rfl
@[simp] theorem onPlg_stu (f : Plg → Plg) : (s.onPlg f).stu = s.stu := rfl
@[simp] theorem onPlg_dcu (f : Plg → Plg) : (s.onPlg f).dcu = s.dcu := rfl
@[simp] theorem onPlg_cnu (f : Plg → Plg) : (s.onPlg f).cnu = s.cnu := rfl
@[simp] theorem onPlg_grc (f : Plg → Plg) : (s.onPlg f).grc = s.grc := rfl
@[simp] theorem onPlg_brc (f : Plg → Plg) : (s.onPlg f).brc = s.brc := rfl
@[simp] theorem onPlg_oru (f : Plg → Plg) : (s.onPlg f).oru = s.oru := rfl
@[simp] theorem onPlg_pyu (f : Plg → Plg) : (s.onPlg f).pyu = s.pyu := rfl
@[simp] theorem onPlg_plg (f : Plg → Plg) : (s.onPlg f).plg = f s.plg := rfl
@[simp] theorem onPlg_clc (f : Plg → Plg) : (s.onPlg f).clc = s.clc := rfl
@[simp] theorem onPlg_plk (f : Plg → Plg) : (s.onPlg f).plk = s.plk := rfl
@[simp] theorem onPlg_cfl (f : Plg → Plg) : (s.onPlg f).cfl = s.cfl := rfl
@[simp] theorem onPlg_timeBase (f : Plg → Plg) : (s.onPlg f).timeBase = s.timeBase := rfl
@[simp] theorem onPlg_subMs (f : Plg → Plg) : (s.onPlg f).subMs = s.subMs := rfl
@[simp] theorem onPlg_pending (f : Plg → Plg) : (s.onPlg f).pending = s.pending := rfl

/-! ### The update of `clc` -/

@[simp] theorem onClc_pins (f : Clc → Clc) : (s.onClc f).pins = s.pins := rfl
@[simp] theorem onClc_lau (f : Clc → Clc) : (s.onClc f).lau = s.lau := rfl
@[simp] theorem onClc_stu (f : Clc → Clc) : (s.onClc f).stu = s.stu := rfl
@[simp] theorem onClc_dcu (f : Clc → Clc) : (s.onClc f).dcu = s.dcu := rfl
@[simp] theorem onClc_cnu (f : Clc → Clc) : (s.onClc f).cnu = s.cnu := rfl
@[simp] theorem onClc_grc (f : Clc → Clc) : (s.onClc f).grc = s.grc := rfl
@[simp] theorem onClc_brc (f : Clc → Clc) : (s.onClc f).brc = s.brc := rfl
@[simp] theorem onClc_oru (f : Clc → Clc) : (s.onClc f).oru = s.oru := rfl
@[simp] theorem onClc_pyu (f : Clc → Clc) : (s.onClc f).pyu = s.pyu := rfl
@[simp] theorem onClc_plg (f : Clc → Clc) : (s.onClc f).plg = s.plg := rfl
@[simp] theorem onClc_clc (f : Clc → Clc) : (s.onClc f).clc = f s.clc := rfl
@[simp] theorem onClc_plk (f : Clc → Clc) : (s.onClc f).plk = s.plk := rfl
@[simp] theorem onClc_cfl (f : Clc → Clc) : (s.onClc f).cfl = s.cfl := rfl
@[simp] theorem onClc_timeBase (f : Clc → Clc) : (s.onClc f).timeBase = s.timeBase := rfl
@[simp] theorem onClc_subMs (f : Clc → Clc) : (s.onClc f).subMs = s.subMs := rfl
@[simp] theorem onClc_pending (f : Clc → Clc) : (s.onClc f).pending = s.pending := rfl

/-! ### The update of `plk` -/

@[simp] theorem onPlk_pins (f : Plk → Plk) : (s.onPlk f).pins = s.pins := rfl
@[simp] theorem onPlk_lau (f : Plk → Plk) : (s.onPlk f).lau = s.lau := rfl
@[simp] theorem onPlk_stu (f : Plk → Plk) : (s.onPlk f).stu = s.stu := rfl
@[simp] theorem onPlk_dcu (f : Plk → Plk) : (s.onPlk f).dcu = s.dcu := rfl
@[simp] theorem onPlk_cnu (f : Plk → Plk) : (s.onPlk f).cnu = s.cnu := rfl
@[simp] theorem onPlk_grc (f : Plk → Plk) : (s.onPlk f).grc = s.grc := rfl
@[simp] theorem onPlk_brc (f : Plk → Plk) : (s.onPlk f).brc = s.brc := rfl
@[simp] theorem onPlk_oru (f : Plk → Plk) : (s.onPlk f).oru = s.oru := rfl
@[simp] theorem onPlk_pyu (f : Plk → Plk) : (s.onPlk f).pyu = s.pyu := rfl
@[simp] theorem onPlk_plg (f : Plk → Plk) : (s.onPlk f).plg = s.plg := rfl
@[simp] theorem onPlk_clc (f : Plk → Plk) : (s.onPlk f).clc = s.clc := rfl
@[simp] theorem onPlk_plk (f : Plk → Plk) : (s.onPlk f).plk = f s.plk := rfl
@[simp] theorem onPlk_cfl (f : Plk → Plk) : (s.onPlk f).cfl = s.cfl := rfl
@[simp] theorem onPlk_timeBase (f : Plk → Plk) : (s.onPlk f).timeBase = s.timeBase := rfl
@[simp] theorem onPlk_subMs (f : Plk → Plk) : (s.onPlk f).subMs = s.subMs := rfl
@[simp] theorem onPlk_pending (f : Plk → Plk) : (s.onPlk f).pending = s.pending := rfl

/-! ### The update of `cfl` -/

@[simp] theorem onCfl_pins (f : Cfl → Cfl) : (s.onCfl f).pins = s.pins := rfl
@[simp] theorem onCfl_lau (f : Cfl → Cfl) : (s.onCfl f).lau = s.lau := rfl
@[simp] theorem onCfl_stu (f : Cfl → Cfl) : (s.onCfl f).stu = s.stu := rfl
@[simp] theorem onCfl_dcu (f : Cfl → Cfl) : (s.onCfl f).dcu = s.dcu := rfl
@[simp] theorem onCfl_cnu (f : Cfl → Cfl) : (s.onCfl f).cnu = s.cnu := rfl
@[simp] theorem onCfl_grc (f : Cfl → Cfl) : (s.onCfl f).grc = s.grc := rfl
@[simp] theorem onCfl_brc (f : Cfl → Cfl) : (s.onCfl f).brc = s.brc := rfl
@[simp] theorem onCfl_oru (f : Cfl → Cfl) : (s.onCfl f).oru = s.oru := rfl
@[simp] theorem onCfl_pyu (f : Cfl → Cfl) : (s.onCfl f).pyu = s.pyu := rfl
@[simp] theorem onCfl_plg (f : Cfl → Cfl) : (s.onCfl f).plg = s.plg := rfl
@[simp] theorem onCfl_clc (f : Cfl → Cfl) : (s.onCfl f).clc = s.clc := rfl
@[simp] theorem onCfl_plk (f : Cfl → Cfl) : (s.onCfl f).plk = s.plk := rfl
@[simp] theorem onCfl_cfl (f : Cfl → Cfl) : (s.onCfl f).cfl = f s.cfl := rfl
@[simp] theorem onCfl_timeBase (f : Cfl → Cfl) : (s.onCfl f).timeBase = s.timeBase := rfl
@[simp] theorem onCfl_subMs (f : Cfl → Cfl) : (s.onCfl f).subMs = s.subMs := rfl
@[simp] theorem onCfl_pending (f : Cfl → Cfl) : (s.onCfl f).pending = s.pending := rfl

end Sys2Proof.Machine
end

