-- ==== Sys2Proof/Laws/Quiet.lean ====
section
/-! SUPPORT. No report between blocks changes the quiet part of the state (Safety.lean): one lemma per operation and handler,
then for a whole action. -/

namespace Sys2Proof.Machine

variable {s : State}

/-! ### Block updates -/

@[simp] theorem quiet_onDcu (f : Dcu → Dcu) : (s.onDcu f).quiet = s.quiet := rfl
@[simp] theorem quiet_onGrc (f : Grc → Grc) : (s.onGrc f).quiet = s.quiet := rfl
@[simp] theorem quiet_onClc (f : Clc → Clc) : (s.onClc f).quiet = s.quiet := rfl

@[simp] theorem quiet_onCnu (f : Cnu → Cnu) (h : (f s.cnu).skips = s.cnu.skips) : (s.onCnu f).quiet = s.quiet := by
  simp [State.quiet, h]

@[simp] theorem quiet_onBrc (f : Brc → Brc) (h1 : (f s.brc).drawerIn = s.brc.drawerIn)
    (h2 : (f s.brc).drawerLimit = s.brc.drawerLimit) : (s.onBrc f).quiet = s.quiet := by
  simp [State.quiet, h1, h2]

@[simp] theorem quiet_onOru (f : Oru → Oru) (h : (f s.oru).nextNumber = s.oru.nextNumber) : (s.onOru f).quiet = s.quiet := by
  simp [State.quiet, h]

@[simp] theorem quiet_onPlg (f : Plg → Plg) (h : (f s.plg).epoch = s.plg.epoch) : (s.onPlg f).quiet = s.quiet := by
  simp [State.quiet, h]

@[simp] theorem quiet_onPlk (f : Plk → Plk) (h1 : (f s.plk).reply = s.plk.reply) (h2 : (f s.plk).miso = s.plk.miso)
    (h3 : (f s.plk).mode = s.plk.mode) : (s.onPlk f).quiet = s.quiet := by
  simp [State.quiet, h1, h2, h3]

@[simp] theorem quiet_onPyu (f : Pyu → Pyu) (h1 : (f s.pyu).reader = s.pyu.reader) (h2 : (f s.pyu).lastRecord = s.pyu.lastRecord)
    (h3 : (f s.pyu).sendFreeAt = s.pyu.sendFreeAt) (h4 : (f s.pyu).tag = s.pyu.tag)
    (h5 : (f s.pyu).lastNewSeq = s.pyu.lastNewSeq) : (s.onPyu f).quiet = s.quiet := by
  simp [State.quiet, h1, h2, h3, h4, h5]

@[simp] theorem quiet_onLau (f : Lau → Lau) (h1 : (f s.lau).receiver = s.lau.receiver)
    (h2 : (f s.lau).intervalGuarded = s.lau.intervalGuarded)
    (h3 : (f s.lau).guard = s.lau.guard) (h4 : (f s.lau).sameStationArmed = s.lau.sameStationArmed) :
    (s.onLau f).quiet = s.quiet := by
  simp [State.quiet, h1, h2, h3, h4]

/-- The part of the share table unit that no report reaches. -/
def Stu.quiet (u : Stu) :=
  (u.table, u.stale, u.staleClearTime, u.awaited, u.fullLease, u.lastClaimPosted, u.lastRenewalDue, u.lastJoinPosted,
   u.lastNeedPosted, u.effBudget, u.effCleanLimit, u.heardBudgets, u.heardCleanLimits, u.heardLeases, u.lineState)

@[simp] theorem quiet_onStu (f : Stu → Stu) (h : (f s.stu).quiet = s.stu.quiet) : (s.onStu f).quiet = s.quiet := by
  simp only [Stu.quiet, Prod.mk.injEq] at h
  simp [State.quiet, h]

/-! ### Shared operations -/

@[simp] theorem quiet_postNotice (k o c d1 d2) : (postNotice k o c d1 d2 s).quiet = s.quiet := by
  unfold postNotice
  repeat' split
  all_goals first | rfl | exact quiet_onPlk _ rfl rfl rfl

@[simp] theorem quiet_offerFrame (o : Offer) : (offerFrame o s).quiet = s.quiet := by
  unfold offerFrame
  repeat' split
  all_goals first | rfl | simp | exact quiet_onLau _ rfl rfl rfl rfl

@[simp] theorem quiet_onCounter (c : CounterId) (f : Counter → Counter) : (onCounter c f s).quiet = s.quiet := by
  cases c <;> rfl

@[simp] theorem quiet_monitorDriven (c) : (monitorDriven c s).quiet = s.quiet := by simp [monitorDriven]
@[simp] theorem quiet_monitorReleased (c) : (monitorReleased c s).quiet = s.quiet := by simp [monitorReleased]

@[simp] theorem quiet_setPump (d) : (setPump d s).quiet = s.quiet := by
  unfold setPump
  (repeat' split) <;> simp

@[simp] theorem quiet_setGrinder (b) : (setGrinder b s).quiet = s.quiet := by
  unfold setGrinder
  (repeat' split) <;> simp

@[simp] theorem quiet_setBrewer (v) : (setBrewer v s).quiet = s.quiet := rfl

@[simp] theorem quiet_heatLoad : (heatLoad s).quiet = s.quiet := rfl
@[simp] theorem quiet_reportRegulator : (reportRegulator s).quiet = s.quiet := rfl

@[simp] theorem quiet_phaseSet (p) : (phaseSet p s).quiet = s.quiet := by
  unfold phaseSet
  (repeat' split) <;> simp

@[simp] theorem quiet_stopLevels : (stopLevels s).quiet = s.quiet := by simp [stopLevels]
@[simp] theorem quiet_unitStop : (unitStop s).quiet = s.quiet := by simp [unitStop]
@[simp] theorem quiet_moveOver : (moveOver s).quiet = s.quiet := by simp [moveOver]
@[simp] theorem quiet_strokesOver : (strokesOver s).quiet = s.quiet := rfl

@[simp] theorem quiet_watermarkTest : (watermarkTest s).quiet = s.quiet := by
  unfold watermarkTest
  (repeat' split) <;> simp

@[simp] theorem quiet_appendEntry (k b a o r m c u) : (appendEntry k b a o r m c u s).quiet = s.quiet := by
  simp [appendEntry, placeEntry]

@[simp] theorem quiet_appendRefundDue (b a o) : (appendRefundDue b a o s).quiet = s.quiet := by
  simp [appendRefundDue, listDue]

@[simp] theorem quiet_reserveUp (n) : (reserveUp n s).quiet = s.quiet := by simp [reserveUp]
@[simp] theorem quiet_reserveDown (n) : (reserveDown n s).quiet = s.quiet := by simp [reserveDown]

@[simp] theorem quiet_pyuClose (o d) : (pyuClose o d s).quiet = s.quiet := by
  unfold pyuClose
  (repeat' split) <;> simp

@[simp] theorem quiet_setDue (k) : (setDue k s).quiet = s.quiet := by
  unfold setDue
  split <;> simp

@[simp] theorem quiet_cupMade : (cupMade s).quiet = s.quiet := by
  simp only [cupMade]
  (repeat' split) <;> simp

@[simp] theorem quiet_setRun (f) : (setRun f s).quiet = s.quiet := by simp [setRun]
@[simp] theorem quiet_setCycle (f) : (setCycle f s).quiet = s.quiet := by simp [setCycle]
@[simp] theorem quiet_setOrder (n f) : (setOrder n f s).quiet = s.quiet := by simp [setOrder]
@[simp] theorem quiet_setPayment (f) : (setPayment f s).quiet = s.quiet := by simp [setPayment]
@[simp] theorem quiet_sendSignal (b) : (sendSignal b s).quiet = s.quiet := by
  unfold sendSignal
  split <;> simp
@[simp] theorem quiet_sendWrite (p) : (sendWrite p s).quiet = s.quiet := by simp [sendWrite]
@[simp] theorem quiet_freeRefunds : (freeRefunds s).quiet = s.quiet := by simp [freeRefunds]
@[simp] theorem quiet_releaseGrind : (releaseGrind s).quiet = s.quiet := by simp [releaseGrind]
@[simp] theorem quiet_endRun (c k) : (endRun c k s).1.quiet = s.quiet := by simp [endRun]
@[simp] theorem quiet_disarm (c) : (disarm c s).1.quiet = s.quiet := by
  unfold disarm
  split <;> simp
@[simp] theorem quiet_grcIdle : (grcIdle s).quiet = s.quiet := rfl
@[simp] theorem quiet_recordAbort (r) : (recordAbort r s).quiet = s.quiet := by simp [recordAbort]
@[simp] theorem quiet_countPuck : (countPuck s).quiet = s.quiet := by
  simp only [countPuck]
  split <;> simp
@[simp] theorem quiet_closeOrder (o r) : (closeOrder o r s).1.quiet = s.quiet := by
  simp only [closeOrder]
  (repeat' split) <;> simp

/-! ### Reports -/

/-- GRINDER ON, where it is not refused. -/
theorem grinderOn_some {s t : State} (h : grinderOn s = some t) : t = setGrinder true s := by
  unfold grinderOn at h
  split at h <;> simp_all

@[simp] theorem quiet_armCommit (c o n) : (armCommit c o n s).quiet = s.quiet := by
  simp only [armCommit]
  (repeat' split) <;> first | rfl | (simp; done) | (simp; rfl)

@[simp] theorem quiet_offerPlainClaim : (offerPlainClaim s).quiet = s.quiet := by
  simp only [offerPlainClaim]
  (repeat' split) <;> first | rfl | (simp; done) | (simp; rfl)

@[simp] theorem quiet_offerClaim : (offerClaim s).quiet = s.quiet := by
  simp only [offerClaim]
  (repeat' split) <;> first | rfl | (simp; done) | (simp; rfl)

@[simp] theorem quiet_stuStepDownEnd : (stuStepDownEnd s).1.quiet = s.quiet := by
  simp only [stuStepDownEnd]
  (repeat' split) <;> first | rfl | (simp; done) | (simp; rfl)

@[simp] theorem quiet_oruPaymentOver (n) : (oruPaymentOver n s).1.quiet = s.quiet := by
  simp only [oruPaymentOver]
  (repeat' split) <;> first | rfl | (simp; done) | (simp; rfl)

@[simp] theorem quiet_endUnpaid (c) : (endUnpaid c s).1.quiet = s.quiet := by
  simp only [endUnpaid]
  (repeat' split) <;> first | rfl | (simp; done) | (simp; rfl)

@[simp] theorem quiet_enterWriting (p) : (enterWriting p s).quiet = s.quiet := by
  simp only [enterWriting]
  (repeat' split) <;> first | rfl | (simp; done) | (simp; rfl)

@[simp] theorem quiet_pyuTryWrite : (pyuTryWrite s).1.quiet = s.quiet := by
  simp only [pyuTryWrite]
  (repeat' split) <;> first | rfl | (simp; done) | (simp; rfl)

@[simp] theorem quiet_suspended : (suspended s).quiet = s.quiet := by
  simp only [suspended]
  (repeat' split) <;> first | rfl | (simp; done) | (simp; rfl)

@[simp] theorem quiet_enterStretch : (enterStretch s).quiet = s.quiet := by
  simp only [enterStretch]
  (repeat' split) <;> first | rfl | (simp; done) | (simp; rfl)

@[simp] theorem quiet_grantedStep : (grantedStep s).quiet = s.quiet := by
  simp only [grantedStep]
  (repeat' split) <;> first | rfl | (simp; done) | (simp; rfl)

@[simp] theorem quiet_grantStep (k) : (grantStep k s).quiet = s.quiet := by
  simp only [grantStep]
  (repeat' split) <;> first | rfl | (simp; done) | (simp; rfl)

@[simp] theorem quiet_endWaiting (o) : (endWaiting o s).1.quiet = s.quiet := by
  simp only [endWaiting]
  (repeat' split) <;> first | rfl | (simp; done) | (simp; rfl)

@[simp] theorem quiet_countOverload : (countOverload s).1.quiet = s.quiet := by
  simp only [countOverload]
  (repeat' split) <;> first | rfl | (simp; done) | (simp; rfl)

@[simp] theorem quiet_failRun (o b) : (failRun o b s).1.quiet = s.quiet := by
  simp only [failRun]
  (repeat' split) <;> first | rfl | (simp; done) | (simp; rfl)

@[simp] theorem quiet_grindClosed : (grindClosed s).quiet = s.quiet := by
  simp only [grindClosed]
  (repeat' split) <;> first | rfl | (simp; done) | (simp; rfl)

@[simp] theorem quiet_clearServiceWish : (clearServiceWish s).1.quiet = s.quiet := by
  simp only [clearServiceWish]
  (repeat' split) <;> first | rfl | (simp; done) | (simp; rfl)

@[simp] theorem quiet_cancelledGrind : (cancelledGrind s).1.quiet = s.quiet := by
  simp only [cancelledGrind]
  (repeat' split) <;> first | rfl | (simp; done) | (simp; rfl)

@[simp] theorem quiet_cancelGrind (n) : (cancelGrind n s).1.quiet = s.quiet := by
  simp only [cancelGrind]
  (repeat' split) <;> first | rfl | (simp; done) | (simp; rfl)

@[simp] theorem quiet_brcStandby : (brcStandby s).quiet = s.quiet := by
  simp only [brcStandby]
  (repeat' split) <;> first | rfl | (simp; done) | (simp; rfl)

@[simp] theorem quiet_clearStandby : (clearStandby s).1.quiet = s.quiet := by
  simp only [clearStandby]
  (repeat' split) <;> first | rfl | (simp; done) | (simp; rfl)

@[simp] theorem quiet_stuckLatch (n) : (stuckLatch n s).1.quiet = s.quiet := by
  simp only [stuckLatch]
  (repeat' split) <;> first | rfl | (simp; done) | (simp; rfl)

@[simp] theorem quiet_endCupRun (p) : (endCupRun p s).1.quiet = s.quiet := by
  simp only [endCupRun]
  (repeat' split) <;> first | rfl | (simp; done) | (simp; rfl)

@[simp] theorem quiet_runState (st d) : (runState st d s).quiet = s.quiet := by
  simp only [runState]
  (repeat' split) <;> first | rfl | (simp; done) | (simp; rfl)

@[simp] theorem quiet_brcAbort (r) : (brcAbort r s).1.quiet = s.quiet := by
  simp only [brcAbort]
  (repeat' split) <;> first | rfl | (simp; done) | (simp; rfl)

@[simp] theorem quiet_grindOver : (grindOver s).1.quiet = s.quiet := by
  simp only [grindOver]
  (repeat' split) <;> first | rfl | (simp; done) | (simp; rfl)

@[simp] theorem quiet_grindAccept (a b c) : (grindAccept a b c s).1.quiet = s.quiet := by
  simp only [grindAccept]
  (repeat' split) <;> first | rfl | (simp; done) | (simp; rfl)

@[simp] theorem quiet_grantCup (o) : (grantCup o s).1.quiet = s.quiet := by
  simp only [grantCup]
  (repeat' split) <;> first | rfl | (simp; done) | (simp; rfl)

@[simp] theorem quiet_clcSuspend : (clcSuspend s).1.quiet = s.quiet := by
  simp only [clcSuspend]
  (repeat' split) <;> first | rfl | (simp; done) | (simp; rfl)

@[simp] theorem quiet_clcAbort (r b) : (clcAbort r b s).1.quiet = s.quiet := by
  simp only [clcAbort]
  (repeat' split) <;> first | rfl | (simp; done) | (simp; rfl)

@[simp] theorem quiet_beginStep (k) : (beginStep k s).1.quiet = s.quiet := by
  simp only [beginStep]
  (repeat' split) <;> first | rfl | (simp; done) | (simp; rfl)

@[simp] theorem quiet_clcStepEnd : (clcStepEnd s).1.quiet = s.quiet := by
  simp only [clcStepEnd]
  (repeat' split) <;> first | rfl | (simp; done) | (simp; rfl)

@[simp] theorem quiet_clcComplete (k) : (clcComplete k s).1.quiet = s.quiet := by
  simp only [clcComplete]
  (repeat' split) <;> first | rfl | (simp; done) | (simp; rfl)

@[simp] theorem quiet_oruPaying (n) : (oruPaying n s).quiet = s.quiet := by
  simp only [oruPaying]
  (repeat' split) <;> first | rfl | (simp; done) | (simp; rfl)

@[simp] theorem quiet_oruPaid (n b d) : (oruPaid n b d s).quiet = s.quiet := by
  simp only [oruPaid]
  (repeat' split) <;> first | rfl | (simp; done) | (simp; rfl)

@[simp] theorem quiet_composeClaim (b) : (composeClaim b s).1.quiet = s.quiet := by
  simp only [composeClaim]
  (repeat' split) <;> first | rfl | (simp; done) | (simp; rfl)

@[simp] theorem quiet_answerOffer (o) : (answerOffer o s).1.quiet = s.quiet := by
  simp only [answerOffer]
  (repeat' split) <;> first | rfl | (simp; done) | (simp; rfl)

@[simp] theorem quiet_beginFrame (k f) : (beginFrame k f s).quiet = s.quiet := by
  simp only [beginFrame]
  (repeat' split) <;> first | rfl | (simp; done) | (simp; rfl)

@[simp] theorem quiet_withdrawSlot (k) : (withdrawSlot k s).quiet = s.quiet := by
  simp only [withdrawSlot]
  (repeat' split) <;> first | rfl | (simp; done) | (simp; rfl)

@[simp] theorem quiet_accessAt (k) : (accessAt k s).1.quiet = s.quiet := by
  simp only [accessAt]
  (repeat' split) <;> first | rfl | (simp; done) | (simp; rfl)

@[simp] theorem quiet_isolatedRise : (isolatedRise s).1.quiet = s.quiet := by
  simp only [isolatedRise]
  (repeat' split) <;> first | rfl | (simp; done) | (simp; rfl)

@[simp] theorem quiet_offerTake (p) : (offerTake p s).quiet = s.quiet := by
  simp only [offerTake]
  (repeat' split) <;> first | rfl | (simp; done) | (simp; rfl)

@[simp] theorem quiet_offerRefresh (p) : (offerRefresh p s).quiet = s.quiet := by
  simp only [offerRefresh]
  (repeat' split) <;> first | rfl | (simp; done) | (simp; rfl)

@[simp] theorem quiet_lauAccess : (lauAccess s).1.quiet = s.quiet := by
  simp only [lauAccess]
  (repeat' split) <;> first | rfl | (simp; done) | (simp; rfl)

@[simp] theorem quiet_claimReport : (claimReport s).1.quiet = s.quiet := by
  simp only [claimReport]
  (repeat' split) <;> first | rfl | (simp; done) | (simp; rfl)

@[simp] theorem quiet_stuLower : (stuLower s).1.quiet = s.quiet := by
  simp only [stuLower]
  (repeat' split) <;> first | rfl | (simp; done) | (simp; rfl)

@[simp] theorem quiet_stuRise (p) : (stuRise p s).1.quiet = s.quiet := by
  simp only [stuRise]
  (repeat' split) <;> first | rfl | (simp; done) | (simp; rfl)

@[simp] theorem quiet_stuRetry : (stuRetry s).quiet = s.quiet := by
  simp only [stuRetry]
  (repeat' split) <;> first | rfl | (simp; done) | (simp; rfl)

@[simp] theorem quiet_stuHeatWish (h) : (stuHeatWish h s).1.quiet = s.quiet := by
  simp only [stuHeatWish]
  (repeat' split) <;> first | rfl | (simp; done) | (simp; rfl)

@[simp] theorem quiet_stuGrindWish (b) : (stuGrindWish b s).1.quiet = s.quiet := by
  simp only [stuGrindWish]
  (repeat' split) <;> first | rfl | (simp; done) | (simp; rfl)

@[simp] theorem quiet_stuCleanWish (b) : (stuCleanWish b s).1.quiet = s.quiet := by
  simp only [stuCleanWish]
  (repeat' split) <;> first | rfl | (simp; done) | (simp; rfl)

@[simp] theorem quiet_stuNeed : (stuNeed s).quiet = s.quiet := by
  simp only [stuNeed]
  (repeat' split) <;> first | rfl | (simp; done) | (simp; rfl)

@[simp] theorem quiet_arm (c o n) : (arm c o n s).1.quiet = s.quiet := by
  simp only [arm]
  (repeat' split) <;> first | rfl | (simp; done) | (simp; rfl)

@[simp] theorem quiet_stopRun (c) : (stopRun c s).1.quiet = s.quiet := by
  simp only [stopRun]
  (repeat' split) <;> first | rfl | (simp; done) | (simp; rfl)

@[simp] theorem quiet_grcRunEnded (cap) : (grcRunEnded cap s).1.quiet = s.quiet := by
  simp only [grcRunEnded]
  (repeat' split) <;> first | rfl | (simp; done) | (simp; rfl)

@[simp] theorem quiet_brcRunEnded (cap) : (brcRunEnded cap s).1.quiet = s.quiet := by
  simp only [brcRunEnded]
  (repeat' split) <;> first | rfl | (simp; done) | (simp; rfl)

@[simp] theorem quiet_clcRunEnded (cap) : (clcRunEnded cap s).1.quiet = s.quiet := by
  simp only [clcRunEnded]
  (repeat' split) <;> first | rfl | (simp; done) | (simp; rfl)

@[simp] theorem quiet_rateUpdate (c cap) : (rateUpdate c cap s).quiet = s.quiet := by
  simp only [rateUpdate]
  (repeat' split) <;> first | rfl | (simp; done) | (simp; rfl)

@[simp] theorem quiet_stopEvent (r) : (stopEvent r s).1.quiet = s.quiet := by
  simp only [stopEvent]
  (repeat' split) <;> first | rfl | (simp; done) | (simp; rfl)

@[simp] theorem quiet_grcStop : (grcStop s).1.quiet = s.quiet := by
  simp only [grcStop]
  (repeat' split) <;> first | rfl | (simp; done) | (simp; rfl)

@[simp] theorem quiet_brcStop (r) : (brcStop r s).1.quiet = s.quiet := by
  simp only [brcStop]
  (repeat' split) <;> first | rfl | (simp; done) | (simp; rfl)

@[simp] theorem quiet_clcStop (r) : (clcStop r s).1.quiet = s.quiet := by
  simp only [clcStop]
  (repeat' split) <;> first | rfl | (simp; done) | (simp; rfl)

@[simp] theorem quiet_grcGranted : (grcGranted s).1.quiet = s.quiet := by
  simp only [grcGranted]
  (repeat' split) <;> first | rfl | (simp; done) | (simp; rfl)

@[simp] theorem quiet_grcWithdrawn : (grcWithdrawn s).1.quiet = s.quiet := by
  simp only [grcWithdrawn]
  (repeat' split) <;> first | rfl | (simp; done) | (simp; rfl)

@[simp] theorem quiet_grcStartGrinder : (grcStartGrinder s).1.quiet = s.quiet := by
  simp only [grcStartGrinder]
  (repeat' split) <;> first | rfl | (simp; done) | (rename_i h; simp [grinderOn_some h])

@[simp] theorem quiet_brcEnter (st) : (brcEnter st s).1.quiet = s.quiet := by
  simp only [brcEnter]
  (repeat' split) <;> first | rfl | (simp; done) | (simp; rfl)

@[simp] theorem quiet_brcMove (b) : (brcMove b s).1.quiet = s.quiet := by
  simp only [brcMove]
  (repeat' split) <;> first | rfl | (simp; done) | (simp; rfl)

@[simp] theorem quiet_brcArrived (b) : (brcArrived b s).1.quiet = s.quiet := by
  simp only [brcArrived]
  (repeat' split) <;> first | rfl | (simp; done) | (simp; rfl)

@[simp] theorem quiet_brcEject : (brcEject s).1.quiet = s.quiet := by
  simp only [brcEject]
  (repeat' split) <;> first | rfl | (simp; done) | (simp; rfl)

@[simp] theorem quiet_brcStopOver : (brcStopOver s).1.quiet = s.quiet := by
  simp only [brcStopOver]
  (repeat' split) <;> first | rfl | (simp; done) | (simp; rfl)

@[simp] theorem quiet_brcProceed : (brcProceed s).1.quiet = s.quiet := by
  simp only [brcProceed]
  (repeat' split) <;> first | rfl | (simp; done) | (simp; rfl)

@[simp] theorem quiet_brcUnitIdle : (brcUnitIdle s).1.quiet = s.quiet := by
  simp only [brcUnitIdle]
  (repeat' split) <;> first | rfl | (simp; done) | (simp; rfl)

@[simp] theorem quiet_brcOffer : (brcOffer s).1.quiet = s.quiet := by
  simp only [brcOffer]
  (repeat' split) <;> first | rfl | (simp; done) | (simp; rfl)

@[simp] theorem quiet_brcHeat : (brcHeat s).1.quiet = s.quiet := by
  simp only [brcHeat]
  (repeat' split) <;> first | rfl | (simp; done) | (simp; rfl)

@[simp] theorem quiet_brcRegulator : (brcRegulator s).1.quiet = s.quiet := by
  simp only [brcRegulator]
  (repeat' split) <;> first | rfl | (simp; done) | (simp; rfl)

@[simp] theorem quiet_brcReadyCheck : (brcReadyCheck s).1.quiet = s.quiet := by
  simp only [brcReadyCheck]
  (repeat' split) <;> first | rfl | (simp; done) | (simp; rfl)

@[simp] theorem quiet_brcNoBase : (brcNoBase s).1.quiet = s.quiet := by
  simp only [brcNoBase]
  (repeat' split) <;> first | rfl | (simp; done) | (simp; rfl)

@[simp] theorem quiet_brcLineLost : (brcLineLost s).1.quiet = s.quiet := by
  simp only [brcLineLost]
  (repeat' split) <;> first | rfl | (simp; done) | (simp; rfl)

@[simp] theorem quiet_brcGrindReport (r) : (brcGrindReport r s).1.quiet = s.quiet := by
  simp only [brcGrindReport]
  (repeat' split) <;> first | rfl | (simp; done) | (simp; rfl)

@[simp] theorem quiet_brcGrindRefused : (brcGrindRefused s).1.quiet = s.quiet := by
  simp only [brcGrindRefused]
  (repeat' split) <;> first | rfl | (simp; done) | (simp; rfl)

@[simp] theorem quiet_brcServeStep : (brcServeStep s).1.quiet = s.quiet := by
  simp only [brcServeStep]
  (repeat' split) <;> first | rfl | (simp; done) | (simp; rfl)

@[simp] theorem quiet_brcStepEnd : (brcStepEnd s).1.quiet = s.quiet := by
  simp only [brcStepEnd]
  (repeat' split) <;> first | rfl | (simp; done) | (simp; rfl)

@[simp] theorem quiet_oruStart : (oruStart s).1.quiet = s.quiet := by
  simp only [oruStart]
  (repeat' split) <;> first | rfl | (simp; done) | (simp; rfl)

@[simp] theorem quiet_oruOffer : (oruOffer s).1.quiet = s.quiet := by
  simp only [oruOffer]
  (repeat' split) <;> first | rfl | (simp; done) | (simp; rfl)

@[simp] theorem quiet_oruGrindReady : (oruGrindReady s).1.quiet = s.quiet := by
  simp only [oruGrindReady]
  (repeat' split) <;> first | rfl | (simp; done) | (simp; rfl)

@[simp] theorem quiet_oruGrindReport (r) : (oruGrindReport r s).1.quiet = s.quiet := by
  simp only [oruGrindReport]
  (repeat' split) <;> first | rfl | (simp; done) | (simp; rfl)

@[simp] theorem quiet_oruRunEnd (r) : (oruRunEnd r s).1.quiet = s.quiet := by
  simp only [oruRunEnd]
  (repeat' split) <;> first | rfl | (simp; done) | (simp; rfl)

@[simp] theorem quiet_oruFaultSet : (oruFaultSet s).1.quiet = s.quiet := by
  simp only [oruFaultSet]
  (repeat' split) <;> first | rfl | (simp; done) | (simp; rfl)

@[simp] theorem quiet_oruCupPending : (oruCupPending s).1.quiet = s.quiet := by
  simp only [oruCupPending]
  (repeat' split) <;> first | rfl | (simp; done) | (simp; rfl)

@[simp] theorem quiet_clcOffer : (clcOffer s).1.quiet = s.quiet := by
  simp only [clcOffer]
  (repeat' split) <;> first | rfl | (simp; done) | (simp; rfl)

@[simp] theorem quiet_clcGranted : (clcGranted s).1.quiet = s.quiet := by
  simp only [clcGranted]
  (repeat' split) <;> first | rfl | (simp; done) | (simp; rfl)

@[simp] theorem quiet_clcLineLost : (clcLineLost s).1.quiet = s.quiet := by
  simp only [clcLineLost]
  (repeat' split) <;> first | rfl | (simp; done) | (simp; rfl)

@[simp] theorem quiet_clcStepDown : (clcStepDown s).1.quiet = s.quiet := by
  simp only [clcStepDown]
  (repeat' split) <;> first | rfl | (simp; done) | (simp; rfl)

@[simp] theorem quiet_brcGrindCancelAnswer (a) : (brcGrindCancelAnswer a s).1.quiet = s.quiet := rfl

@[simp] theorem quiet_clcMoveStopped : (clcMoveStopped s).1.quiet = s.quiet := rfl

@[simp] theorem quiet_clcReady : (clcReady s).1.quiet = s.quiet := by
  simp only [clcReady]
  (repeat' split) <;> first | rfl | (simp; done) | (simp; rfl)

@[simp] theorem quiet_clcPositioned : (clcPositioned s).1.quiet = s.quiet := by
  simp only [clcPositioned]
  (repeat' split) <;> first | rfl | (simp; done) | (simp; rfl)

@[simp] theorem quiet_clcStrokesDone : (clcStrokesDone s).1.quiet = s.quiet := by
  simp only [clcStrokesDone]
  (repeat' split) <;> first | rfl | (simp; done) | (simp; rfl)

@[simp] theorem quiet_clcCupPending : (clcCupPending s).1.quiet = s.quiet := by
  simp only [clcCupPending]
  (repeat' split) <;> first | rfl | (simp; done) | (simp; rfl)

@[simp] theorem quiet_clcRequest : (clcRequest s).1.quiet = s.quiet := by
  simp only [clcRequest]
  (repeat' split) <;> first | rfl | (simp; done) | (simp; rfl)

@[simp] theorem quiet_clcStepTail : (clcStepTail s).1.quiet = s.quiet := by
  simp only [clcStepTail]
  (repeat' split) <;> first | rfl | (simp; done) | (simp; rfl)

@[simp] theorem quiet_clcSlotWait : (clcSlotWait s).1.quiet = s.quiet := by
  simp only [clcSlotWait]
  (repeat' split) <;> first | rfl | (simp; done) | (simp; rfl)

@[simp] theorem quiet_pyuGuardEnd : (pyuGuardEnd s).1.quiet = s.quiet := by
  simp only [pyuGuardEnd]
  (repeat' split) <;> first | rfl | (simp; done) | (simp; rfl)

@[simp] theorem quiet_pyuDispute (q) : (pyuDispute q s).1.quiet = s.quiet := by
  simp only [pyuDispute]
  (repeat' split) <;> first | rfl | (simp; done) | (simp; rfl)

@[simp] theorem quiet_pyuJoin : (pyuJoin s).quiet = s.quiet := by
  simp only [pyuJoin]
  (repeat' split) <;> first | rfl | (simp; done) | (simp; rfl)

@[simp] theorem quiet_pyuStaleCleared : (pyuStaleCleared s).quiet = s.quiet := by
  simp only [pyuStaleCleared]
  (repeat' split) <;> first | rfl | (simp; done) | (simp; rfl)

@[simp] theorem quiet_pyuTakePosted (g q) : (pyuTakePosted g q s).quiet = s.quiet := by
  simp only [pyuTakePosted]
  (repeat' split) <;> first | rfl | (simp; done) | (simp; rfl)

@[simp] theorem quiet_pyuTakeGivenUp (g) : (pyuTakeGivenUp g s).1.quiet = s.quiet := by
  simp only [pyuTakeGivenUp]
  (repeat' split) <;> first | rfl | (simp; done) | (simp; rfl)

@[simp] theorem quiet_pyuHoldCleared (b) : (pyuHoldCleared b s).1.quiet = s.quiet := by
  simp only [pyuHoldCleared]
  (repeat' split) <;> first | rfl | (simp; done) | (simp; rfl)

@[simp] theorem quiet_pyuHoldTest (n b q) : (pyuHoldTest n b q s).quiet = s.quiet := by
  simp only [pyuHoldTest]
  (repeat' split) <;> first | rfl | (simp; done) | (simp; rfl)

/-! ### Whole actions -/

theorem quiet_perform (a : Act) : (perform a s).1.quiet = s.quiet := by
  cases a
  case runEnded o cap => cases o <;> simp [perform]
  all_goals simp [perform]

theorem quiet_runActs (n : Nat) (acts : List Act) (s : State) : (runActs n acts s).quiet = s.quiet :=
  runActs_keeps (fun t => t.quiet = s.quiet) (fun a t h => by rw [quiet_perform, h]) n acts s rfl

/-- An action ends with the quiet part that its own effect left. -/
theorem quiet_react (e : Eff) : (react e).quiet = e.1.quiet :=
  react_keeps (fun t => t.quiet = e.1.quiet) (fun a t h => by rw [quiet_perform, h]) e rfl

end Sys2Proof.Machine
end

