-- ==== Sys2Proof/Laws/Bare.lean ====
section
/-! SUPPORT. The station mode, the loaded configuration and RESET_N are left alone by every action but the load, the resets
and the mode changes. -/

namespace Sys2Proof.Machine

variable {s t : State}

/-- The station mode, the configuration loader and the level of RESET_N. -/
def State.bare (s : State) : Mode × Cfl × Bool := (s.plk.mode, s.cfl, s.pins.resetAsserted)

theorem bare_of_quiet (e : t.quiet = s.quiet) : t.bare = s.bare :=
  congrArg (fun q => (q.mode, q.cfl, q.pins.resetAsserted)) e

@[simp] theorem bare_react (e : Eff) : (react e).bare = e.1.bare := bare_of_quiet (quiet_react e)
@[simp] theorem bare_runActs (n acts) (s : State) : (runActs n acts s).bare = s.bare := bare_of_quiet (quiet_runActs n acts s)

@[simp] theorem bare_onLau (f) : (s.onLau f).bare = s.bare := rfl
@[simp] theorem bare_setLine (b) : (setLine b s).bare = s.bare := rfl
@[simp] theorem bare_onStu (f) : (s.onStu f).bare = s.bare := rfl
@[simp] theorem bare_onDcu (f) : (s.onDcu f).bare = s.bare := rfl
@[simp] theorem bare_onCnu (f) : (s.onCnu f).bare = s.bare := rfl
@[simp] theorem bare_onGrc (f) : (s.onGrc f).bare = s.bare := rfl
@[simp] theorem bare_onBrc (f) : (s.onBrc f).bare = s.bare := rfl
@[simp] theorem bare_onOru (f) : (s.onOru f).bare = s.bare := rfl
@[simp] theorem bare_onPyu (f) : (s.onPyu f).bare = s.bare := rfl
@[simp] theorem bare_onPlg (f) : (s.onPlg f).bare = s.bare := rfl
@[simp] theorem bare_onClc (f) : (s.onClc f).bare = s.bare := rfl

@[simp] theorem bare_postNotice (k o c d1 d2) : (postNotice k o c d1 d2 s).bare = s.bare := bare_of_quiet (quiet_postNotice _ _ _ _ _)
@[simp] theorem bare_offerFrame (o : Offer) : (offerFrame o s).bare = s.bare := bare_of_quiet (quiet_offerFrame _)
@[simp] theorem bare_monitorDriven (c) : (monitorDriven c s).bare = s.bare := bare_of_quiet (quiet_monitorDriven _)
@[simp] theorem bare_monitorReleased (c) : (monitorReleased c s).bare = s.bare := bare_of_quiet (quiet_monitorReleased _)
@[simp] theorem bare_setPump (d) : (setPump d s).bare = s.bare := bare_of_quiet (quiet_setPump _)
@[simp] theorem bare_setGrinder (b) : (setGrinder b s).bare = s.bare := bare_of_quiet (quiet_setGrinder _)
@[simp] theorem bare_setBrewer (v) : (setBrewer v s).bare = s.bare := bare_of_quiet (quiet_setBrewer _)
@[simp] theorem bare_heatLoad : (heatLoad s).bare = s.bare := bare_of_quiet quiet_heatLoad
@[simp] theorem bare_reportRegulator : (reportRegulator s).bare = s.bare := bare_of_quiet quiet_reportRegulator
@[simp] theorem bare_phaseSet (p) : (phaseSet p s).bare = s.bare := bare_of_quiet (quiet_phaseSet _)
@[simp] theorem bare_stopLevels : (stopLevels s).bare = s.bare := bare_of_quiet quiet_stopLevels
@[simp] theorem bare_unitStop : (unitStop s).bare = s.bare := bare_of_quiet quiet_unitStop
@[simp] theorem bare_moveOver : (moveOver s).bare = s.bare := bare_of_quiet quiet_moveOver
@[simp] theorem bare_strokesOver : (strokesOver s).bare = s.bare := bare_of_quiet quiet_strokesOver
@[simp] theorem bare_watermarkTest : (watermarkTest s).bare = s.bare := bare_of_quiet quiet_watermarkTest
@[simp] theorem bare_appendEntry (k b a o r m c u) : (appendEntry k b a o r m c u s).bare = s.bare := bare_of_quiet (quiet_appendEntry _ _ _ _ _ _ _ _)
@[simp] theorem bare_appendRefundDue (b a o) : (appendRefundDue b a o s).bare = s.bare := bare_of_quiet (quiet_appendRefundDue _ _ _)
@[simp] theorem bare_reserveUp (n) : (reserveUp n s).bare = s.bare := bare_of_quiet (quiet_reserveUp _)
@[simp] theorem bare_reserveDown (n) : (reserveDown n s).bare = s.bare := bare_of_quiet (quiet_reserveDown _)
@[simp] theorem bare_pyuClose (o d) : (pyuClose o d s).bare = s.bare := bare_of_quiet (quiet_pyuClose _ _)
@[simp] theorem bare_setDue (k) : (setDue k s).bare = s.bare := bare_of_quiet (quiet_setDue _)
@[simp] theorem bare_cupMade : (cupMade s).bare = s.bare := bare_of_quiet quiet_cupMade
@[simp] theorem bare_setRun (f) : (setRun f s).bare = s.bare := bare_of_quiet (quiet_setRun _)
@[simp] theorem bare_setCycle (f) : (setCycle f s).bare = s.bare := bare_of_quiet (quiet_setCycle _)
@[simp] theorem bare_setOrder (n f) : (setOrder n f s).bare = s.bare := bare_of_quiet (quiet_setOrder _ _)
@[simp] theorem bare_setPayment (f) : (setPayment f s).bare = s.bare := bare_of_quiet (quiet_setPayment _)
@[simp] theorem bare_sendSignal (b) : (sendSignal b s).bare = s.bare := bare_of_quiet (quiet_sendSignal _)
@[simp] theorem bare_sendWrite (p) : (sendWrite p s).bare = s.bare := bare_of_quiet (quiet_sendWrite _)
@[simp] theorem bare_freeRefunds : (freeRefunds s).bare = s.bare := bare_of_quiet quiet_freeRefunds
@[simp] theorem bare_releaseGrind : (releaseGrind s).bare = s.bare := bare_of_quiet quiet_releaseGrind
@[simp] theorem bare_endRun (c k) : (endRun c k s).1.bare = s.bare := bare_of_quiet (quiet_endRun _ _)
@[simp] theorem bare_disarm (c) : (disarm c s).1.bare = s.bare := bare_of_quiet (quiet_disarm _)
@[simp] theorem bare_grcIdle : (grcIdle s).bare = s.bare := bare_of_quiet quiet_grcIdle
@[simp] theorem bare_recordAbort (r) : (recordAbort r s).bare = s.bare := bare_of_quiet (quiet_recordAbort _)
@[simp] theorem bare_countPuck : (countPuck s).bare = s.bare := bare_of_quiet quiet_countPuck
@[simp] theorem bare_closeOrder (o r) : (closeOrder o r s).1.bare = s.bare := bare_of_quiet (quiet_closeOrder _ _)
@[simp] theorem bare_armCommit (c o n) : (armCommit c o n s).bare = s.bare := bare_of_quiet (quiet_armCommit _ _ _)
@[simp] theorem bare_offerPlainClaim : (offerPlainClaim s).bare = s.bare := bare_of_quiet quiet_offerPlainClaim
@[simp] theorem bare_offerClaim : (offerClaim s).bare = s.bare := bare_of_quiet quiet_offerClaim
@[simp] theorem bare_stuStepDownEnd : (stuStepDownEnd s).1.bare = s.bare := bare_of_quiet quiet_stuStepDownEnd
@[simp] theorem bare_oruPaymentOver (n) : (oruPaymentOver n s).1.bare = s.bare := bare_of_quiet (quiet_oruPaymentOver _)
@[simp] theorem bare_endUnpaid (c) : (endUnpaid c s).1.bare = s.bare := bare_of_quiet (quiet_endUnpaid _)
@[simp] theorem bare_enterWriting (p) : (enterWriting p s).bare = s.bare := bare_of_quiet (quiet_enterWriting _)
@[simp] theorem bare_pyuTryWrite : (pyuTryWrite s).1.bare = s.bare := bare_of_quiet quiet_pyuTryWrite
@[simp] theorem bare_suspended : (suspended s).bare = s.bare := bare_of_quiet quiet_suspended
@[simp] theorem bare_enterStretch : (enterStretch s).bare = s.bare := bare_of_quiet quiet_enterStretch
@[simp] theorem bare_grantedStep : (grantedStep s).bare = s.bare := bare_of_quiet quiet_grantedStep
@[simp] theorem bare_grantStep (k) : (grantStep k s).bare = s.bare := bare_of_quiet (quiet_grantStep _)
@[simp] theorem bare_endWaiting (o) : (endWaiting o s).1.bare = s.bare := bare_of_quiet (quiet_endWaiting _)
@[simp] theorem bare_countOverload : (countOverload s).1.bare = s.bare := bare_of_quiet quiet_countOverload
@[simp] theorem bare_failRun (o b) : (failRun o b s).1.bare = s.bare := bare_of_quiet (quiet_failRun _ _)
@[simp] theorem bare_grindClosed : (grindClosed s).bare = s.bare := bare_of_quiet quiet_grindClosed
@[simp] theorem bare_clearServiceWish : (clearServiceWish s).1.bare = s.bare := bare_of_quiet quiet_clearServiceWish
@[simp] theorem bare_cancelGrind (n) : (cancelGrind n s).1.bare = s.bare := bare_of_quiet (quiet_cancelGrind _)
@[simp] theorem bare_clearStandby : (clearStandby s).1.bare = s.bare := bare_of_quiet quiet_clearStandby
@[simp] theorem bare_stuckLatch (n) : (stuckLatch n s).1.bare = s.bare := bare_of_quiet (quiet_stuckLatch _)
@[simp] theorem bare_endCupRun (p) : (endCupRun p s).1.bare = s.bare := bare_of_quiet (quiet_endCupRun _)
@[simp] theorem bare_runState (st d) : (runState st d s).bare = s.bare := bare_of_quiet (quiet_runState _ _)
@[simp] theorem bare_brcAbort (r) : (brcAbort r s).1.bare = s.bare := bare_of_quiet (quiet_brcAbort _)
@[simp] theorem bare_grindOver : (grindOver s).1.bare = s.bare := bare_of_quiet quiet_grindOver
@[simp] theorem bare_grindAccept (a b c) : (grindAccept a b c s).1.bare = s.bare := bare_of_quiet (quiet_grindAccept _ _ _)
@[simp] theorem bare_grantCup (o) : (grantCup o s).1.bare = s.bare := bare_of_quiet (quiet_grantCup _)
@[simp] theorem bare_clcSuspend : (clcSuspend s).1.bare = s.bare := bare_of_quiet quiet_clcSuspend
@[simp] theorem bare_clcAbort (r b) : (clcAbort r b s).1.bare = s.bare := bare_of_quiet (quiet_clcAbort _ _)
@[simp] theorem bare_beginStep (k) : (beginStep k s).1.bare = s.bare := bare_of_quiet (quiet_beginStep _)
@[simp] theorem bare_clcStepEnd : (clcStepEnd s).1.bare = s.bare := bare_of_quiet quiet_clcStepEnd
@[simp] theorem bare_clcComplete (k) : (clcComplete k s).1.bare = s.bare := bare_of_quiet (quiet_clcComplete _)
@[simp] theorem bare_oruPaying (n) : (oruPaying n s).bare = s.bare := bare_of_quiet (quiet_oruPaying _)
@[simp] theorem bare_oruPaid (n b d) : (oruPaid n b d s).bare = s.bare := bare_of_quiet (quiet_oruPaid _ _ _)
@[simp] theorem bare_composeClaim (b) : (composeClaim b s).1.bare = s.bare := bare_of_quiet (quiet_composeClaim _)
@[simp] theorem bare_answerOffer (o) : (answerOffer o s).1.bare = s.bare := bare_of_quiet (quiet_answerOffer _)
@[simp] theorem bare_beginFrame (k f) : (beginFrame k f s).bare = s.bare := bare_of_quiet (quiet_beginFrame _ _)
@[simp] theorem bare_withdrawSlot (k) : (withdrawSlot k s).bare = s.bare := bare_of_quiet (quiet_withdrawSlot _)
@[simp] theorem bare_accessAt (k) : (accessAt k s).1.bare = s.bare := bare_of_quiet (quiet_accessAt _)
@[simp] theorem bare_isolatedRise : (isolatedRise s).1.bare = s.bare := bare_of_quiet quiet_isolatedRise
@[simp] theorem bare_offerTake (p) : (offerTake p s).bare = s.bare := bare_of_quiet (quiet_offerTake _)
@[simp] theorem bare_offerRefresh (p) : (offerRefresh p s).bare = s.bare := bare_of_quiet (quiet_offerRefresh _)
@[simp] theorem bare_lauAccess : (lauAccess s).1.bare = s.bare := bare_of_quiet quiet_lauAccess
@[simp] theorem bare_claimReport : (claimReport s).1.bare = s.bare := bare_of_quiet quiet_claimReport
@[simp] theorem bare_stuLower : (stuLower s).1.bare = s.bare := bare_of_quiet quiet_stuLower
@[simp] theorem bare_stuRise (p) : (stuRise p s).1.bare = s.bare := bare_of_quiet (quiet_stuRise _)
@[simp] theorem bare_stuRetry : (stuRetry s).bare = s.bare := bare_of_quiet quiet_stuRetry
@[simp] theorem bare_stuHeatWish (h) : (stuHeatWish h s).1.bare = s.bare := bare_of_quiet (quiet_stuHeatWish _)
@[simp] theorem bare_stuGrindWish (b) : (stuGrindWish b s).1.bare = s.bare := bare_of_quiet (quiet_stuGrindWish _)
@[simp] theorem bare_stuCleanWish (b) : (stuCleanWish b s).1.bare = s.bare := bare_of_quiet (quiet_stuCleanWish _)
@[simp] theorem bare_stuNeed : (stuNeed s).bare = s.bare := bare_of_quiet quiet_stuNeed
@[simp] theorem bare_arm (c o n) : (arm c o n s).1.bare = s.bare := bare_of_quiet (quiet_arm _ _ _)
@[simp] theorem bare_stopRun (c) : (stopRun c s).1.bare = s.bare := bare_of_quiet (quiet_stopRun _)
@[simp] theorem bare_grcRunEnded (cap) : (grcRunEnded cap s).1.bare = s.bare := bare_of_quiet (quiet_grcRunEnded _)
@[simp] theorem bare_brcRunEnded (cap) : (brcRunEnded cap s).1.bare = s.bare := bare_of_quiet (quiet_brcRunEnded _)
@[simp] theorem bare_clcRunEnded (cap) : (clcRunEnded cap s).1.bare = s.bare := bare_of_quiet (quiet_clcRunEnded _)
@[simp] theorem bare_rateUpdate (c cap) : (rateUpdate c cap s).bare = s.bare := bare_of_quiet (quiet_rateUpdate _ _)
@[simp] theorem bare_stopEvent (r) : (stopEvent r s).1.bare = s.bare := bare_of_quiet (quiet_stopEvent _)
@[simp] theorem bare_grcStop : (grcStop s).1.bare = s.bare := bare_of_quiet quiet_grcStop
@[simp] theorem bare_brcStop (r) : (brcStop r s).1.bare = s.bare := bare_of_quiet (quiet_brcStop _)
@[simp] theorem bare_clcStop (r) : (clcStop r s).1.bare = s.bare := bare_of_quiet (quiet_clcStop _)
@[simp] theorem bare_grcGranted : (grcGranted s).1.bare = s.bare := bare_of_quiet quiet_grcGranted
@[simp] theorem bare_grcWithdrawn : (grcWithdrawn s).1.bare = s.bare := bare_of_quiet quiet_grcWithdrawn
@[simp] theorem bare_grcStartGrinder : (grcStartGrinder s).1.bare = s.bare := bare_of_quiet quiet_grcStartGrinder
@[simp] theorem bare_brcEnter (st) : (brcEnter st s).1.bare = s.bare := bare_of_quiet (quiet_brcEnter _)
@[simp] theorem bare_brcMove (b) : (brcMove b s).1.bare = s.bare := bare_of_quiet (quiet_brcMove _)
@[simp] theorem bare_brcArrived (b) : (brcArrived b s).1.bare = s.bare := bare_of_quiet (quiet_brcArrived _)
@[simp] theorem bare_brcEject : (brcEject s).1.bare = s.bare := bare_of_quiet quiet_brcEject
@[simp] theorem bare_brcProceed : (brcProceed s).1.bare = s.bare := bare_of_quiet quiet_brcProceed
@[simp] theorem bare_brcUnitIdle : (brcUnitIdle s).1.bare = s.bare := bare_of_quiet quiet_brcUnitIdle
@[simp] theorem bare_brcOffer : (brcOffer s).1.bare = s.bare := bare_of_quiet quiet_brcOffer
@[simp] theorem bare_brcHeat : (brcHeat s).1.bare = s.bare := bare_of_quiet quiet_brcHeat
@[simp] theorem bare_brcRegulator : (brcRegulator s).1.bare = s.bare := bare_of_quiet quiet_brcRegulator
@[simp] theorem bare_brcReadyCheck : (brcReadyCheck s).1.bare = s.bare := bare_of_quiet quiet_brcReadyCheck
@[simp] theorem bare_brcNoBase : (brcNoBase s).1.bare = s.bare := bare_of_quiet quiet_brcNoBase
@[simp] theorem bare_brcLineLost : (brcLineLost s).1.bare = s.bare := bare_of_quiet quiet_brcLineLost
@[simp] theorem bare_brcGrindReport (r) : (brcGrindReport r s).1.bare = s.bare := bare_of_quiet (quiet_brcGrindReport _)
@[simp] theorem bare_brcGrindRefused : (brcGrindRefused s).1.bare = s.bare := bare_of_quiet quiet_brcGrindRefused
@[simp] theorem bare_brcServeStep : (brcServeStep s).1.bare = s.bare := bare_of_quiet quiet_brcServeStep
@[simp] theorem bare_brcStepEnd : (brcStepEnd s).1.bare = s.bare := bare_of_quiet quiet_brcStepEnd
@[simp] theorem bare_brcStandby : (brcStandby s).bare = s.bare := bare_of_quiet quiet_brcStandby
@[simp] theorem bare_oruStart : (oruStart s).1.bare = s.bare := bare_of_quiet quiet_oruStart
@[simp] theorem bare_oruOffer : (oruOffer s).1.bare = s.bare := bare_of_quiet quiet_oruOffer
@[simp] theorem bare_oruGrindReady : (oruGrindReady s).1.bare = s.bare := bare_of_quiet quiet_oruGrindReady
@[simp] theorem bare_oruGrindReport (r) : (oruGrindReport r s).1.bare = s.bare := bare_of_quiet (quiet_oruGrindReport _)
@[simp] theorem bare_oruRunEnd (r) : (oruRunEnd r s).1.bare = s.bare := bare_of_quiet (quiet_oruRunEnd _)
@[simp] theorem bare_oruFaultSet : (oruFaultSet s).1.bare = s.bare := bare_of_quiet quiet_oruFaultSet
@[simp] theorem bare_oruCupPending : (oruCupPending s).1.bare = s.bare := bare_of_quiet quiet_oruCupPending
@[simp] theorem bare_clcOffer : (clcOffer s).1.bare = s.bare := bare_of_quiet quiet_clcOffer
@[simp] theorem bare_clcGranted : (clcGranted s).1.bare = s.bare := bare_of_quiet quiet_clcGranted
@[simp] theorem bare_clcLineLost : (clcLineLost s).1.bare = s.bare := bare_of_quiet quiet_clcLineLost
@[simp] theorem bare_clcStepDown : (clcStepDown s).1.bare = s.bare := bare_of_quiet quiet_clcStepDown
@[simp] theorem bare_brcGrindCancelAnswer (a) : (brcGrindCancelAnswer a s).1.bare = s.bare := rfl
@[simp] theorem bare_clcMoveStopped : (clcMoveStopped s).1.bare = s.bare := rfl
@[simp] theorem bare_clcReady : (clcReady s).1.bare = s.bare := bare_of_quiet quiet_clcReady
@[simp] theorem bare_clcPositioned : (clcPositioned s).1.bare = s.bare := bare_of_quiet quiet_clcPositioned
@[simp] theorem bare_clcStrokesDone : (clcStrokesDone s).1.bare = s.bare := bare_of_quiet quiet_clcStrokesDone
@[simp] theorem bare_clcCupPending : (clcCupPending s).1.bare = s.bare := bare_of_quiet quiet_clcCupPending
@[simp] theorem bare_clcRequest : (clcRequest s).1.bare = s.bare := bare_of_quiet quiet_clcRequest
@[simp] theorem bare_clcStepTail : (clcStepTail s).1.bare = s.bare := bare_of_quiet quiet_clcStepTail
@[simp] theorem bare_clcSlotWait : (clcSlotWait s).1.bare = s.bare := bare_of_quiet quiet_clcSlotWait
@[simp] theorem bare_pyuGuardEnd : (pyuGuardEnd s).1.bare = s.bare := bare_of_quiet quiet_pyuGuardEnd
@[simp] theorem bare_pyuDispute (q) : (pyuDispute q s).1.bare = s.bare := bare_of_quiet (quiet_pyuDispute _)
@[simp] theorem bare_pyuJoin : (pyuJoin s).bare = s.bare := bare_of_quiet quiet_pyuJoin
@[simp] theorem bare_pyuStaleCleared : (pyuStaleCleared s).bare = s.bare := bare_of_quiet quiet_pyuStaleCleared
@[simp] theorem bare_pyuTakePosted (g q) : (pyuTakePosted g q s).bare = s.bare := bare_of_quiet (quiet_pyuTakePosted _ _)
@[simp] theorem bare_pyuTakeGivenUp (g) : (pyuTakeGivenUp g s).1.bare = s.bare := bare_of_quiet (quiet_pyuTakeGivenUp _)
@[simp] theorem bare_pyuHoldCleared (b) : (pyuHoldCleared b s).1.bare = s.bare := bare_of_quiet (quiet_pyuHoldCleared _)
@[simp] theorem bare_pyuHoldTest (n b q) : (pyuHoldTest n b q s).bare = s.bare := bare_of_quiet (quiet_pyuHoldTest _ _ _)

@[simp] theorem bare_onPins (f : Pins → Pins) (h : ∀ p : Pins, (f p).resetAsserted = p.resetAsserted) : (s.onPins f).bare = s.bare := by
  simp [State.bare, h]
@[simp] theorem bare_onPlk (f : Plk → Plk) (h : ∀ p : Plk, (f p).mode = p.mode) : (s.onPlk f).bare = s.bare := by
  simp [State.bare, h]

@[simp] theorem bare_onCounter (c f) : (onCounter c f s).bare = s.bare := by cases c <;> rfl
@[simp] theorem bare_edge (c n m) : (onCounter c (edgeCounter n m) s).bare = s.bare := bare_onCounter _ _
@[simp] theorem bare_staleMark (b) : (staleMark b s).bare = s.bare := by
  simp only [staleMark]; (repeat' split) <;> first | rfl | (simp; done)
@[simp] theorem bare_stuWithdraw : (stuWithdraw s).1.bare = s.bare := by
  simp only [stuWithdraw]; (repeat' split) <;> first | rfl | (simp; done)
@[simp] theorem bare_setGuard : (setGuard s).bare = s.bare := rfl
@[simp] theorem bare_toHunt : (toHunt s).bare = s.bare := rfl
@[simp] theorem bare_setEntry (n e) : (setEntry n e s).bare = s.bare := by simp only [setEntry]; split <;> rfl
@[simp] theorem bare_noteSeq (n e) : (noteSeq n e s).bare = s.bare := by simp [noteSeq]
@[simp] theorem bare_staleClear : (staleClear s).1.bare = s.bare := rfl
@[simp] theorem bare_leaveAwaited (n) : (leaveAwaited n s).bare = s.bare := rfl
@[simp] theorem bare_heardAwaited (n) : (heardAwaited n s).1.bare = s.bare := by simp only [heardAwaited]; split <;> rfl
@[simp] theorem bare_disputeTest (a b c d) : (disputeTest a b c d s).bare = s.bare := by simp only [disputeTest]; (repeat' split) <;> first | rfl | (simp; done)
@[simp] theorem bare_noteMismatch (a b c d e) : (noteMismatch a b c d e s).bare = s.bare := by simp only [noteMismatch]; (repeat' split) <;> first | rfl | (simp; done)
@[simp] theorem bare_dropDispute (a b) : (dropDispute a b s).bare = s.bare := rfl
@[simp] theorem bare_isolate : (isolate s).1.bare = s.bare := by simp [isolate]
@[simp] theorem bare_rejoin : (rejoin s).1.bare = s.bare := by simp only [rejoin]; split <;> simp
@[simp] theorem bare_claimPosted (q) : (claimPosted q s).bare = s.bare := rfl
@[simp] theorem bare_notePosted (o q) : (notePosted o q s).1.bare = s.bare := by simp only [notePosted]; split <;> first | rfl | simp
@[simp] theorem bare_stuClaimFailed (o q) : (stuClaimFailed o q s).bare = s.bare := by simp only [stuClaimFailed]; (repeat' split) <;> rfl
@[simp] theorem bare_noteFailed (o q b) : (noteFailed o q b s).1.bare = s.bare := by simp only [noteFailed]; split <;> first | rfl | simp
@[simp] theorem bare_stuGuardEnd : (stuGuardEnd s).1.bare = s.bare := by simp only [stuGuardEnd]; (repeat' split) <;> rfl
@[simp] theorem bare_flowCount : (flowCount s).bare = s.bare := by simp only [flowCount]; (repeat' split) <;> first | rfl | (simp; done)
@[simp] theorem bare_oneShot (c) : (oneShot c s).bare = s.bare := by simp only [oneShot]; split <;> simp

theorem bare_stuDeliver (n f) : (stuDeliver n f s).1.bare = s.bare := by
  cases f <;> simp only [stuDeliver, stuJoin, stuClaim, stuHold, stuNeedHeard, stuDispute] <;> (repeat' split) <;> first | rfl | (simp; done)
@[simp] theorem bare_frameEnd (f) : (frameEnd f s).bare = s.bare := by
  simp only [frameEnd]; split <;> rfl
theorem bare_sameStation (f) : (sameStation f s).bare = s.bare := by
  simp only [sameStation]; split <;> simp [bare_frameEnd]
theorem bare_deliver (n f) : (deliver n f s).1.bare = s.bare := by
  simp only [deliver]; split
  · exact bare_sameStation f
  · rw [bare_stuDeliver, bare_frameEnd]
theorem bare_damaged : (damaged s).1.bare = s.bare := by simp [damaged, stuDamaged]
theorem bare_framePosted : (framePosted s).1.bare = s.bare := by
  simp only [framePosted]; split
  · rfl
  · simp
theorem bare_collision : (collision s).1.bare = s.bare := by
  simp only [collision]; (repeat' split) <;> first | rfl | (simp; done)
theorem bare_guardEnd : (guardEnd s).1.bare = s.bare := by simp [guardEnd]
theorem bare_rxTake (a b c) : (rxTake a b c s).1.bare = s.bare := by
  simp only [rxTake, rxHeader, rxBody, rxCheck, rxComplete]; (repeat' split) <;> first | rfl | exact bare_damaged | exact bare_framePosted | exact bare_deliver _ _
theorem bare_rxCharacter (a b c) : (rxCharacter a b c s).1.bare = s.bare := bare_rxTake a b c
theorem bare_rxIdle : (rxIdle s).1.bare = s.bare := by
  simp only [rxIdle]; (repeat' split) <;> first | rfl | exact bare_damaged (s := setLine false s)

theorem bare_leaseExpire (n) : (leaseExpire n s).1.bare = s.bare := by simp [leaseExpire]
theorem bare_holdExpire (n) : (holdExpire n s).1.bare = s.bare := by simp [holdExpire]
theorem bare_renewal : (renewal s).1.bare = s.bare := by
  simp only [renewal]; (repeat' split) <;> simp
theorem bare_flowRise : (flowRise s).1.bare = s.bare := by
  simp only [flowRise, terminalCount]; (repeat' split) <;> first | rfl | (simp; done)
theorem bare_encoderChange (a b) : (encoderChange a b s).1.bare = s.bare := by
  simp only [encoderChange, encoderMove, terminalCount]; (repeat' split) <;> first | rfl | (simp; done)
end Sys2Proof.Machine
end

