-- ==== Sys2Proof/Laws/Drive.lean ====
section
/-! SUPPORT. What the operations of the Drive Channel Unit leave in its channels, and what the counters' operations leave. -/

namespace Sys2Proof.Machine

variable {s : State}

/-! ### The channels -/

@[simp] theorem onCounter_dcu (c f) : (onCounter c f s).dcu = s.dcu := by cases c <;> rfl
@[simp] theorem monitorDriven_dcu (c) : (monitorDriven c s).dcu = s.dcu := by simp [monitorDriven]
@[simp] theorem monitorReleased_dcu (c) : (monitorReleased c s).dcu = s.dcu := by simp [monitorReleased]

@[simp] theorem setPump_dcu (d) :
    (setPump d s).dcu = { s.dcu with pump := d, pumpPeriod := if d = 0 then 0 else s.dcu.pumpPeriod } := by
  simp only [setPump]
  (repeat' split) <;> simp_all

@[simp] theorem setGrinder_dcu (b) :
    (setGrinder b s).dcu = if s.dcu.grinder = b then s.dcu
      else { s.dcu with grinder := b, grinderPeriod := if b then s.dcu.grinderPeriod else 0 } := by
  simp only [setGrinder]
  (repeat' split) <;> simp_all

@[simp] theorem setBrewer_dcu (v) : (setBrewer v s).dcu = { s.dcu with brewer := v } := rfl
@[simp] theorem heatLoad_dcu : (heatLoad s).dcu = { s.dcu with heater := s.heaterNow } := rfl

@[simp] theorem setGrinder_grinder (b) : (setGrinder b s).dcu.grinder = b := by simp; split <;> simp_all
@[simp] theorem setGrinder_pump (b) : (setGrinder b s).dcu.pump = s.dcu.pump := by simp; split <;> rfl
@[simp] theorem setGrinder_brewer (b) : (setGrinder b s).dcu.brewer = s.dcu.brewer := by simp; split <;> rfl
@[simp] theorem setGrinder_heater (b) : (setGrinder b s).dcu.heater = s.dcu.heater := by simp; split <;> rfl
@[simp] theorem setGrinder_granted (b) : (setGrinder b s).dcu.granted = s.dcu.granted := by simp; split <;> rfl
@[simp] theorem setGrinder_grindPerm (b) : (setGrinder b s).dcu.grindPerm = s.dcu.grindPerm := by simp; split <;> rfl
@[simp] theorem setGrinder_basePerm (b) : (setGrinder b s).dcu.basePerm = s.dcu.basePerm := by simp; split <;> rfl

/-! ### What bars the grinder and the heater -/

theorem grinderBarred_onCounter (c) (f : Counter → Counter) (hf : ∀ k : Counter, (f k).run = k.run) :
    (onCounter c f s).grinderBarred = s.grinderBarred := by
  cases c <;> simp [onCounter, State.grinderBarred, hf]

theorem heaterBarred_onCounter (c f) : (onCounter c f s).heaterBarred = s.heaterBarred := by cases c <;> rfl

@[simp] theorem monitorDriven_grinderBarred (c) : (monitorDriven c s).grinderBarred = s.grinderBarred :=
  grinderBarred_onCounter _ _ (by intro k; split <;> rfl)
@[simp] theorem monitorReleased_grinderBarred (c) : (monitorReleased c s).grinderBarred = s.grinderBarred :=
  grinderBarred_onCounter _ _ (fun _ => rfl)
@[simp] theorem onDcu_grinderBarred (f) : (s.onDcu f).grinderBarred = s.grinderBarred := rfl
@[simp] theorem onDcu_heaterBarred (f) : (s.onDcu f).heaterBarred = s.heaterBarred := rfl
@[simp] theorem heatLoad_grinderBarred : (heatLoad s).grinderBarred = s.grinderBarred := rfl
@[simp] theorem heatLoad_heaterBarred : (heatLoad s).heaterBarred = s.heaterBarred := rfl
@[simp] theorem setBrewer_grinderBarred (v) : (setBrewer v s).grinderBarred = s.grinderBarred := rfl
@[simp] theorem setBrewer_heaterBarred (v) : (setBrewer v s).heaterBarred = s.heaterBarred := rfl
@[simp] theorem monitorDriven_heaterBarred (c) : (monitorDriven c s).heaterBarred = s.heaterBarred := heaterBarred_onCounter _ _
@[simp] theorem monitorReleased_heaterBarred (c) : (monitorReleased c s).heaterBarred = s.heaterBarred := heaterBarred_onCounter _ _

@[simp] theorem setPump_grinderBarred (d) : (setPump d s).grinderBarred = s.grinderBarred := by
  simp only [setPump]; (repeat' split) <;> simp
@[simp] theorem setPump_heaterBarred (d) : (setPump d s).heaterBarred = s.heaterBarred := by
  simp only [setPump]; (repeat' split) <;> simp
@[simp] theorem setGrinder_grinderBarred (b) : (setGrinder b s).grinderBarred = s.grinderBarred := by
  simp only [setGrinder]; (repeat' split) <;> simp
@[simp] theorem setGrinder_heaterBarred (b) : (setGrinder b s).heaterBarred = s.heaterBarred := by
  simp only [setGrinder]; (repeat' split) <;> simp

@[simp] theorem onDcu_conf (f) : (s.onDcu f).conf = s.conf := rfl
@[simp] theorem heatLoad_conf : (heatLoad s).conf = s.conf := rfl
@[simp] theorem setBrewer_conf (v) : (setBrewer v s).conf = s.conf := rfl
@[simp] theorem onCounter_conf (c f) : (onCounter c f s).conf = s.conf := by cases c <;> rfl
@[simp] theorem monitorDriven_conf (c) : (monitorDriven c s).conf = s.conf := by simp [monitorDriven]
@[simp] theorem monitorReleased_conf (c) : (monitorReleased c s).conf = s.conf := by simp [monitorReleased]
@[simp] theorem setPump_conf (d) : (setPump d s).conf = s.conf := by simp only [setPump]; (repeat' split) <;> simp
@[simp] theorem setGrinder_conf (b) : (setGrinder b s).conf = s.conf := by simp only [setGrinder]; (repeat' split) <;> simp

/-! ### Heat load events and reports of the permissions -/

theorem heaterNow_le : s.heaterNow ≤ heatDuty s.conf s.dcu.granted := by
  simp only [State.heaterNow]
  (repeat' split) <;> omega

theorem heaterNow_barred (h : s.heaterBarred = true) : s.heaterNow = 0 := by simp [State.heaterNow, h]

/-- What GRINDER holds after a report of the permissions (R53, R59, R66). -/
def reportedGrinder (s : State) : Bool :=
  if s.stu.confirmed.grind then s.dcu.grinder || (s.dcu.serviceGrind && !s.grinderBarred) else false

/-- A report of the permissions leaves them at the confirmed composition, HEATER at the duty of a heat load event at the granted
level, GRINDER by `reportedGrinder`, and PUMP and BREWER as they were or stopped (R53, R59, R60). -/
theorem claimReport_dcu :
    (claimReport s).1.dcu.basePerm = s.stu.confirmed.base ∧ (claimReport s).1.dcu.grindPerm = s.stu.confirmed.grind
    ∧ (claimReport s).1.dcu.granted = s.stu.confirmed.heat
    ∧ (claimReport s).1.dcu.heater = (s.onDcu fun u => { u with granted := s.stu.confirmed.heat }).heaterNow
    ∧ (claimReport s).1.dcu.grinder = reportedGrinder s
    ∧ (claimReport s).1.dcu.pump = (if s.stu.confirmed.base then s.dcu.pump else 0)
    ∧ (claimReport s).1.dcu.brewer = (if s.stu.confirmed.base then s.dcu.brewer else .stop)
    ∧ (claimReport s).1.grinderBarred = s.grinderBarred ∧ (claimReport s).1.heaterBarred = s.heaterBarred
    ∧ (claimReport s).1.conf = s.conf := by
  simp only [claimReport, reportedGrinder]
  cases s.stu.confirmed.base <;> cases s.stu.confirmed.grind <;>
    cases hg : s.dcu.grinder <;> cases hm : (s.dcu.serviceGrind && !s.grinderBarred) <;>
    simp [hg, hm] <;> (repeat' split) <;> simp_all <;> rfl

end Sys2Proof.Machine
end

