-- ==== Sys2Proof/Laws/Interlocks.lean ====
section
/-! SUPPORT. The interlocks of the drive channels are kept by every report between blocks. -/

namespace Sys2Proof.Machine

variable {s t : State}

/-! ### What the interlocks read -/

/-- What the interlocks read of the DCU. -/
def Dcu.drive (u : Dcu) := (u.grinder, u.pump, u.brewer, u.heater, u.granted, u.grindPerm, u.basePerm)

/-- The fields that the interlocks read. -/
def State.drive (s : State) :=
  (s.dcu.grinder, s.dcu.pump, s.dcu.brewer, s.dcu.heater, s.dcu.granted, s.dcu.grindPerm, s.dcu.basePerm, s.pins, s.cfl,
   s.grc.fault, s.cnu.grind.run == .reached, s.brc.overheat)

theorem Interlocks.of_drive (e : t.drive = s.drive) (h : Interlocks s) : Interlocks t := by
  simp only [State.drive, Prod.mk.injEq] at e
  obtain ⟨e1, e2, e3, e4, e5, e6, e7, e8, e9, e10, e11, e12⟩ := e
  obtain ⟨h1, h2, h3, h4, h5⟩ := h
  constructor
  · simpa only [State.grinderBarred, e1, e6, e8, e10, e11] using h1
  · simpa only [e2, e7] using h2
  · simpa only [e3, e7] using h3
  · simpa only [State.conf, e4, e5, e9] using h4
  · simpa only [State.heaterBarred, e4, e8, e12] using h5

/-! ### Operations -/

@[simp] theorem locks_onLau (f) (h : Interlocks s) : Interlocks (s.onLau f) := Interlocks.of_drive (s := s) rfl h
@[simp] theorem locks_onStu (f) (h : Interlocks s) : Interlocks (s.onStu f) := Interlocks.of_drive (s := s) rfl h
@[simp] theorem locks_onOru (f) (h : Interlocks s) : Interlocks (s.onOru f) := Interlocks.of_drive (s := s) rfl h
@[simp] theorem locks_onPyu (f) (h : Interlocks s) : Interlocks (s.onPyu f) := Interlocks.of_drive (s := s) rfl h
@[simp] theorem locks_onPlg (f) (h : Interlocks s) : Interlocks (s.onPlg f) := Interlocks.of_drive (s := s) rfl h
@[simp] theorem locks_onClc (f) (h : Interlocks s) : Interlocks (s.onClc f) := Interlocks.of_drive (s := s) rfl h
@[simp] theorem locks_onPlk (f) (h : Interlocks s) : Interlocks (s.onPlk f) := Interlocks.of_drive (s := s) rfl h
@[simp] theorem locks_onGrc (f : Grc → Grc) (hf : ∀ g : Grc, (f g).fault = g.fault) (h : Interlocks s) : Interlocks (s.onGrc f) :=
  Interlocks.of_drive (s := s) (by simp [State.drive, hf]) h
@[simp] theorem locks_onBrc (f : Brc → Brc) (hf : ∀ b : Brc, (f b).overheat = b.overheat) (h : Interlocks s) : Interlocks (s.onBrc f) :=
  Interlocks.of_drive (s := s) (by simp [State.drive, hf]) h
@[simp] theorem locks_onDcu (f : Dcu → Dcu) (h1 : ∀ u : Dcu, (f u).grinder = u.grinder) (h2 : ∀ u : Dcu, (f u).pump = u.pump)
    (h3 : ∀ u : Dcu, (f u).brewer = u.brewer) (h4 : ∀ u : Dcu, (f u).heater = u.heater) (h5 : ∀ u : Dcu, (f u).granted = u.granted)
    (h6 : ∀ u : Dcu, (f u).grindPerm = u.grindPerm) (h7 : ∀ u : Dcu, (f u).basePerm = u.basePerm) (h : Interlocks s) :
    Interlocks (s.onDcu f) :=
  Interlocks.of_drive (s := s) (by simp [State.drive, h1, h2, h3, h4, h5, h6, h7]) h
/-- The same from one equation over all that the interlocks read of the DCU. -/
theorem locks_onDcu_of (f : Dcu → Dcu) (hf : ∀ u : Dcu, (f u).drive = u.drive) (h : Interlocks s) : Interlocks (s.onDcu f) := by
  have e := hf s.dcu
  simp only [Dcu.drive, Prod.mk.injEq] at e
  exact Interlocks.of_drive (s := s) (by simp [State.drive, e]) h
@[simp] theorem locks_setLine (b) (h : Interlocks s) : Interlocks (setLine b s) := by
  obtain ⟨h1, h2, h3, h4, h5⟩ := h
  exact ⟨h1, h2, h3, h4, h5⟩
@[simp] theorem locks_onCounter (c) (f : Counter → Counter) (hf : ∀ k : Counter, (f k).run = k.run) (h : Interlocks s) :
    Interlocks (onCounter c f s) := by
  cases c
  · exact Interlocks.of_drive (s := s) (by simp [State.drive, onCounter, hf]) h
  · exact Interlocks.of_drive (s := s) rfl h

@[simp] theorem locks_postNotice (k o c d1 d2) (h : Interlocks s) : Interlocks (postNotice k o c d1 d2 s) := by
  simp only [postNotice]
  (repeat' split) <;> simp (maxDischargeDepth := 12) [h]

@[simp] theorem locks_offerFrame (o) (h : Interlocks s) : Interlocks (offerFrame o s) := by
  simp only [offerFrame]
  (repeat' split) <;> simp (maxDischargeDepth := 12) [h]

@[simp] theorem locks_monitorDriven (c) (h : Interlocks s) : Interlocks (monitorDriven c s) :=
  locks_onCounter _ _ (by intro k; split <;> rfl) h
@[simp] theorem locks_monitorReleased (c) (h : Interlocks s) : Interlocks (monitorReleased c s) :=
  locks_onCounter _ _ (fun _ => rfl) h

/-- PUMP is set to 0 %, or base permission stands. -/
theorem locks_setPump (d) (hd : d = 0 ∨ s.dcu.basePerm = true) (h : Interlocks s) : Interlocks (setPump d s) := by
  have key : Interlocks (s.onDcu fun u => { u with pump := d, pumpPeriod := if d = 0 then 0 else u.pumpPeriod }) := by
    obtain ⟨h1, h2, h3, h4, h5⟩ := h
    refine ⟨h1, ?_, h3, h4, h5⟩
    intro hp
    rcases hd with rfl | hb
    · exact absurd hp (by simp [State.onDcu])
    · exact hb
  simp only [setPump]
  revert key
  generalize (s.onDcu fun u => { u with pump := d, pumpPeriod := if d = 0 then 0 else u.pumpPeriod }) = t
  intro key
  (repeat' split) <;> simp [key]

@[simp] theorem locks_setPump_zero (h : Interlocks s) : Interlocks (setPump 0 s) := locks_setPump 0 (.inl rfl) h

/-- GRINDER is set OFF, or permission stands and nothing bars it. -/
theorem locks_setGrinder (b) (hb : b = false ∨ (s.dcu.grindPerm = true ∧ s.grinderBarred = false)) (h : Interlocks s) :
    Interlocks (setGrinder b s) := by
  have key : Interlocks (s.onDcu fun u => { u with grinder := b, grinderPeriod := if b = true then u.grinderPeriod else 0 }) := by
    obtain ⟨h1, h2, h3, h4, h5⟩ := h
    refine ⟨?_, h2, h3, h4, h5⟩
    intro hg
    rcases hb with rfl | hb
    · exact absurd hg (by simp [State.onDcu])
    · exact hb
  simp only [setGrinder]
  revert key
  generalize (s.onDcu fun u => { u with grinder := b, grinderPeriod := if b = true then u.grinderPeriod else 0 }) = t
  intro key
  (repeat' split) <;> simp [key, h]

@[simp] theorem locks_setGrinder_off (h : Interlocks s) : Interlocks (setGrinder false s) := locks_setGrinder _ (.inl rfl) h

theorem locks_setBrewer (v) (hv : v = .stop ∨ s.dcu.basePerm = true) (h : Interlocks s) : Interlocks (setBrewer v s) := by
  obtain ⟨h1, h2, h3, h4, h5⟩ := h
  refine ⟨h1, h2, ?_, h4, h5⟩
  intro hb
  rcases hv with rfl | hp
  · exact absurd rfl hb
  · exact hp

@[simp] theorem locks_setBrewer_stop (h : Interlocks s) : Interlocks (setBrewer .stop s) := locks_setBrewer _ (.inl rfl) h

/-- A heat load event brings HEATER within the granted level and the overheat protection, whatever it was. -/
theorem locks_heatLoad_of (h1 : s.dcu.grinder = true → s.dcu.grindPerm = true ∧ s.grinderBarred = false)
    (h2 : 0 < s.dcu.pump → s.dcu.basePerm = true) (h3 : s.dcu.brewer ≠ .stop → s.dcu.basePerm = true) :
    Interlocks (heatLoad s) :=
  ⟨h1, h2, h3, heaterNow_le, fun h => heaterNow_barred h⟩

@[simp] theorem locks_heatLoad (h : Interlocks s) : Interlocks (heatLoad s) := locks_heatLoad_of h.grinder h.pump h.brewer
@[simp] theorem locks_reportRegulator (h : Interlocks s) : Interlocks (reportRegulator s) :=
  locks_heatLoad (locks_onDcu_of _ (fun _ => rfl) h)

@[simp] theorem locks_phaseSet (p) (h : Interlocks s) : Interlocks (phaseSet p s) := by
  simp only [phaseSet]
  split
  · exact h
  · split
    · exact locks_onDcu_of _ (fun _ => rfl) h
    · refine locks_setPump _ ?_ (locks_onDcu_of _ (fun _ => rfl) h)
      cases hb : s.dcu.basePerm
      · left; simp
      · right; exact hb

/-- The channels that draw power stand still after a stop (R62). -/
theorem stopLevels_parked : (stopLevels s).dcu.heater = 0 ∧ (stopLevels s).dcu.pump = 0 ∧ (stopLevels s).dcu.grinder = false
    ∧ (stopLevels s).dcu.brewer = .stop := by
  simp only [stopLevels, setPump, setGrinder, monitorReleased, onCounter]
  (repeat' split) <;> simp_all

theorem locks_of_parked (h : s.dcu.heater = 0 ∧ s.dcu.pump = 0 ∧ s.dcu.grinder = false ∧ s.dcu.brewer = .stop) : Interlocks s := by
  obtain ⟨a, b, c, d⟩ := h
  constructor
  · simp [c]
  · simp [b]
  · simp [d]
  · simp [a]
  · simp [a]

@[simp] theorem locks_stopLevels : Interlocks (stopLevels s) := locks_of_parked stopLevels_parked

@[simp] theorem locks_unitStop (h : Interlocks s) : Interlocks (unitStop s) := by
  have h1 : Interlocks (setBrewer .stop (setPump 0 s)) := by simp (maxDischargeDepth := 12) [h]
  exact Interlocks.of_drive (s := setBrewer .stop (setPump 0 s)) rfl h1

@[simp] theorem locks_moveOver (h : Interlocks s) : Interlocks (moveOver s) := by simp [moveOver, h]
@[simp] theorem locks_strokesOver (h : Interlocks s) : Interlocks (strokesOver s) := Interlocks.of_drive (s := s) rfl h
@[simp] theorem locks_grcIdle (h : Interlocks s) : Interlocks (grcIdle s) := Interlocks.of_drive (s := s) rfl h
@[simp] theorem locks_setDue (k) (h : Interlocks s) : Interlocks (setDue k s) := by
  simp only [setDue]; split <;> simp (maxDischargeDepth := 12) [h]
@[simp] theorem locks_cupMade (h : Interlocks s) : Interlocks (cupMade s) := by
  simp only [cupMade]; (repeat' split) <;> simp (maxDischargeDepth := 12) [h]
@[simp] theorem locks_setRun (f) (h : Interlocks s) : Interlocks (setRun f s) := by simp [setRun, h]
@[simp] theorem locks_setCycle (f) (h : Interlocks s) : Interlocks (setCycle f s) := by simp [setCycle, h]
@[simp] theorem locks_setOrder (n f) (h : Interlocks s) : Interlocks (setOrder n f s) := by simp [setOrder, h]
@[simp] theorem locks_setPayment (f) (h : Interlocks s) : Interlocks (setPayment f s) := by simp [setPayment, h]
@[simp] theorem locks_sendSignal (b) (h : Interlocks s) : Interlocks (sendSignal b s) := by
  simp only [sendSignal]; split <;> simp (maxDischargeDepth := 12) [h]
@[simp] theorem locks_sendWrite (p) (h : Interlocks s) : Interlocks (sendWrite p s) := by simp [sendWrite, h]
@[simp] theorem locks_freeRefunds (h : Interlocks s) : Interlocks (freeRefunds s) := by simp [freeRefunds, h]
@[simp] theorem locks_recordAbort (r) (h : Interlocks s) : Interlocks (recordAbort r s) := by simp [recordAbort, h]
@[simp] theorem locks_countPuck (h : Interlocks s) : Interlocks (countPuck s) := by
  simp only [countPuck]; split <;> simp (maxDischargeDepth := 12) [h]
@[simp] theorem locks_placeEntry (k b a o r m c u) (h : Interlocks s) : Interlocks (placeEntry k b a o r m c u s) := by
  simp [placeEntry, h]
@[simp] theorem locks_appendEntry (k b a o r m c u) (h : Interlocks s) : Interlocks (appendEntry k b a o r m c u s) := by
  simp only [appendEntry, watermarkTest]; split <;> simp (maxDischargeDepth := 12) [h]
@[simp] theorem locks_appendRefundDue (b a o) (h : Interlocks s) : Interlocks (appendRefundDue b a o s) := by
  simp [appendRefundDue, listDue, h]
@[simp] theorem locks_reserveUp (n) (h : Interlocks s) : Interlocks (reserveUp n s) := by simp [reserveUp, h]
@[simp] theorem locks_reserveDown (n) (h : Interlocks s) : Interlocks (reserveDown n s) := by simp [reserveDown, h]
@[simp] theorem locks_pyuClose (o d) (h : Interlocks s) : Interlocks (pyuClose o d s) := by
  simp only [pyuClose]; (repeat' split) <;> simp (maxDischargeDepth := 12) [h]
@[simp] theorem locks_closeOrder (o r) (h : Interlocks s) : Interlocks (closeOrder o r s).1 := by
  simp only [closeOrder]; (repeat' split) <;> simp (maxDischargeDepth := 12) [h]

/-- A counter whose run stops short of REACHED. -/
theorem locks_counter_free (c) (f : Counter → Counter) (hf : ∀ k : Counter, (f k).run = .reached → k.run = .reached)
    (h : Interlocks s) : Interlocks (onCounter c f s) := by
  cases c
  · obtain ⟨h1, h2, h3, h4, h5⟩ := h
    refine ⟨?_, h2, h3, h4, h5⟩
    intro hg
    obtain ⟨a, b⟩ := h1 hg
    refine ⟨a, ?_⟩
    simp only [State.grinderBarred, Bool.or_eq_false_iff, beq_eq_false_iff_ne, ne_eq] at b ⊢
    exact ⟨b.1, fun e => b.2 (hf _ e)⟩
  · exact Interlocks.of_drive (s := s) rfl h

theorem locks_endRun (c cause) (hc : cause ≠ .target) (h : Interlocks s) : Interlocks (endRun c cause s).1 := by
  simp only [endRun]
  refine locks_counter_free _ _ ?_ h
  intro k hk
  have : (cause == EndCause.target) = false := by simpa using hc
  simp [endedCounter, this] at hk

@[simp] theorem locks_disarm (c) (h : Interlocks s) : Interlocks (disarm c s).1 := by
  simp only [disarm]; split
  · exact locks_endRun _ _ (by simp) h
  · exact h
@[simp] theorem locks_stopRun (c) (h : Interlocks s) : Interlocks (stopRun c s).1 := by
  simp only [stopRun]; split
  · exact locks_endRun _ _ (by simp) h
  · exact h
@[simp] theorem locks_releaseGrind (h : Interlocks s) : Interlocks (releaseGrind s) :=
  locks_counter_free _ _ (by intro k; split <;> simp) h
@[simp] theorem locks_armCommit (c o n) (h : Interlocks s) : Interlocks (armCommit c o n s) :=
  locks_counter_free _ _ (by intro k; simp only [armedCounter]; split <;> simp) h
@[simp] theorem locks_arm (c o n) (h : Interlocks s) : Interlocks (arm c o n s).1 := by
  simp only [arm]; split
  · exact locks_endRun _ _ (by simp) h
  · simp [h]

/-- The overload count and its latch, GRINDER being OFF (R96). -/
theorem locks_countOverload (hg : s.dcu.grinder = false) (h : Interlocks s) : Interlocks (countOverload s).1 := by
  obtain ⟨h1, h2, h3, h4, h5⟩ := h
  simp only [countOverload]
  split
  · exact ⟨fun e => absurd e (by simp [hg]), h2, h3, h4, h5⟩
  · exact ⟨fun e => absurd e (by simp [hg]), h2, h3, h4, h5⟩

@[simp] theorem endRun_dcu (c k) : (endRun c k s).1.dcu = s.dcu := by cases c <;> rfl
@[simp] theorem disarm_dcu (c) : (disarm c s).1.dcu = s.dcu := by simp only [disarm]; split <;> simp

@[simp] theorem locks_failRun (o b) (h : Interlocks s) : Interlocks (failRun o b s).1 := by
  simp only [failRun]
  split
  · refine locks_countOverload ?_ ?_
    · simp only [disarm_dcu, onGrc_dcu, setGrinder_grinder]
    · simp (maxDischargeDepth := 12) [-setGrinder_dcu, h]
  · simp (maxDischargeDepth := 12) [h]

theorem locks_grinderOn (hs : grinderOn s = some t) (h : Interlocks s) : Interlocks t := by
  simp only [grinderOn] at hs
  split at hs
  · cases hs
  · rename_i hb
    cases hs
    simp only [Bool.or_eq_true, Bool.not_eq_true', not_or, Bool.not_eq_true, Bool.not_eq_false] at hb
    exact locks_setGrinder _ (.inr ⟨hb.2, hb.1⟩) h

/-! ### Reports -/

@[simp] theorem locks_offerPlainClaim (h : Interlocks s) : Interlocks (offerPlainClaim s) := by
  simp only [offerPlainClaim]
  (repeat' split) <;> first | exact h | (simp (maxDischargeDepth := 12) [h]; done)

@[simp] theorem locks_offerClaim (h : Interlocks s) : Interlocks (offerClaim s) := by
  simp only [offerClaim]
  (repeat' split) <;> first | exact h | (simp (maxDischargeDepth := 12) [h]; done)

@[simp] theorem locks_stuStepDownEnd (h : Interlocks s) : Interlocks (stuStepDownEnd s).1 := by
  simp only [stuStepDownEnd]
  (repeat' split) <;> first | exact h | (simp (maxDischargeDepth := 12) [h]; done)

@[simp] theorem locks_oruPaymentOver (n) (h : Interlocks s) : Interlocks (oruPaymentOver n s).1 := by
  simp only [oruPaymentOver]
  (repeat' split) <;> first | exact h | (simp (maxDischargeDepth := 12) [h]; done)

@[simp] theorem locks_endUnpaid (c) (h : Interlocks s) : Interlocks (endUnpaid c s).1 := by
  simp only [endUnpaid]
  (repeat' split) <;> first | exact h | (simp (maxDischargeDepth := 12) [h]; done)

@[simp] theorem locks_enterWriting (p) (h : Interlocks s) : Interlocks (enterWriting p s) := by
  simp only [enterWriting]
  (repeat' split) <;> first | exact h | (simp (maxDischargeDepth := 12) [h]; done)

@[simp] theorem locks_pyuTryWrite (h : Interlocks s) : Interlocks (pyuTryWrite s).1 := by
  simp only [pyuTryWrite]
  (repeat' split) <;> first | exact h | (simp (maxDischargeDepth := 12) [h]; done)

@[simp] theorem locks_suspended (h : Interlocks s) : Interlocks (suspended s) := by
  simp only [suspended]
  (repeat' split) <;> first | exact h | (simp (maxDischargeDepth := 12) [h]; done)

@[simp] theorem locks_enterStretch (h : Interlocks s) : Interlocks (enterStretch s) := by
  simp only [enterStretch]
  (repeat' split) <;> first | exact h | (simp (maxDischargeDepth := 12) [h]; done)

@[simp] theorem locks_grantedStep (h : Interlocks s) : Interlocks (grantedStep s) := by
  simp only [grantedStep]
  (repeat' split) <;> first | exact h | (simp (maxDischargeDepth := 12) [h]; done)

@[simp] theorem locks_grantStep (k) (h : Interlocks s) : Interlocks (grantStep k s) := by
  simp only [grantStep]
  (repeat' split) <;> first | exact h | (simp (maxDischargeDepth := 12) [h]; done)

@[simp] theorem locks_endWaiting (o) (h : Interlocks s) : Interlocks (endWaiting o s).1 := by
  simp only [endWaiting]
  (repeat' split) <;> first | exact h | (simp (maxDischargeDepth := 12) [h]; done)

@[simp] theorem locks_grindClosed (h : Interlocks s) : Interlocks (grindClosed s) := by
  simp only [grindClosed]
  (repeat' split) <;> first | exact h | (simp (maxDischargeDepth := 12) [h]; done)

@[simp] theorem locks_clearServiceWish (h : Interlocks s) : Interlocks (clearServiceWish s).1 := by
  simp only [clearServiceWish]
  (repeat' split) <;> first | exact h | (simp (maxDischargeDepth := 12) [h]; done)

@[simp] theorem locks_cancelledGrind (h : Interlocks s) : Interlocks (cancelledGrind s).1 := by
  simp only [cancelledGrind]
  (repeat' split) <;> first | exact h | (simp (maxDischargeDepth := 12) [h]; done)

@[simp] theorem locks_cancelGrind (n) (h : Interlocks s) : Interlocks (cancelGrind n s).1 := by
  simp only [cancelGrind]
  (repeat' split) <;> first | exact h | (simp (maxDischargeDepth := 12) [h]; done)

@[simp] theorem locks_brcStandby (h : Interlocks s) : Interlocks (brcStandby s) := by
  simp only [brcStandby]
  (repeat' split) <;> first | exact h | (simp (maxDischargeDepth := 12) [h]; done)

@[simp] theorem locks_clearStandby (h : Interlocks s) : Interlocks (clearStandby s).1 := by
  simp only [clearStandby]
  (repeat' split) <;> first | exact h | (simp (maxDischargeDepth := 12) [h]; done)

@[simp] theorem locks_stuckLatch (n) (h : Interlocks s) : Interlocks (stuckLatch n s).1 := by
  simp only [stuckLatch]
  (repeat' split) <;> first | exact h | (simp (maxDischargeDepth := 12) [h]; done)

@[simp] theorem locks_endCupRun (p) (h : Interlocks s) : Interlocks (endCupRun p s).1 := by
  simp only [endCupRun]
  (repeat' split) <;> first | exact h | (simp (maxDischargeDepth := 12) [h]; done)

@[simp] theorem locks_runState (st d) (h : Interlocks s) : Interlocks (runState st d s) := by
  simp only [runState]
  (repeat' split) <;> first | exact h | (simp (maxDischargeDepth := 12) [h]; done)

@[simp] theorem locks_brcAbort (r) (h : Interlocks s) : Interlocks (brcAbort r s).1 := by
  simp only [brcAbort]
  (repeat' split) <;> first | exact h | (simp (maxDischargeDepth := 12) [h]; done)

@[simp] theorem locks_grindOver (h : Interlocks s) : Interlocks (grindOver s).1 := by
  simp only [grindOver]
  (repeat' split) <;> first | exact h | (simp (maxDischargeDepth := 12) [h]; done)

@[simp] theorem locks_grindAccept (a b c) (h : Interlocks s) : Interlocks (grindAccept a b c s).1 := by
  simp only [grindAccept]
  (repeat' split) <;> first | exact h | (simp (maxDischargeDepth := 12) [h]; done)

@[simp] theorem locks_grantCup (o) (h : Interlocks s) : Interlocks (grantCup o s).1 := by
  simp only [grantCup]
  (repeat' split) <;> first | exact h | (simp (maxDischargeDepth := 12) [h]; done)

@[simp] theorem locks_clcSuspend (h : Interlocks s) : Interlocks (clcSuspend s).1 := by
  simp only [clcSuspend]
  (repeat' split) <;> first | exact h | (simp (maxDischargeDepth := 12) [h]; done)

@[simp] theorem locks_clcAbort (r b) (h : Interlocks s) : Interlocks (clcAbort r b s).1 := by
  simp only [clcAbort]
  (repeat' split) <;> first | exact h | (simp (maxDischargeDepth := 12) [h]; done)

@[simp] theorem locks_beginStep (k) (h : Interlocks s) : Interlocks (beginStep k s).1 := by
  simp only [beginStep]
  (repeat' split) <;> first | exact h | (simp (maxDischargeDepth := 12) [h]; done)

@[simp] theorem locks_clcStepEnd (h : Interlocks s) : Interlocks (clcStepEnd s).1 := by
  simp only [clcStepEnd]
  (repeat' split) <;> first | exact h | (simp (maxDischargeDepth := 12) [h]; done)

@[simp] theorem locks_clcComplete (k) (h : Interlocks s) : Interlocks (clcComplete k s).1 := by
  simp only [clcComplete]
  (repeat' split) <;> first | exact h | (simp (maxDischargeDepth := 12) [h]; done)

@[simp] theorem locks_oruPaying (n) (h : Interlocks s) : Interlocks (oruPaying n s) := by
  simp only [oruPaying]
  (repeat' split) <;> first | exact h | (simp (maxDischargeDepth := 12) [h]; done)

@[simp] theorem locks_oruPaid (n b d) (h : Interlocks s) : Interlocks (oruPaid n b d s) := by
  simp only [oruPaid]
  (repeat' split) <;> first | exact h | (simp (maxDischargeDepth := 12) [h]; done)

@[simp] theorem locks_composeClaim (b) (h : Interlocks s) : Interlocks (composeClaim b s).1 := by
  simp only [composeClaim]
  (repeat' split) <;> first | exact h | (simp (maxDischargeDepth := 12) [h]; done)

@[simp] theorem locks_answerOffer (o) (h : Interlocks s) : Interlocks (answerOffer o s).1 := by
  simp only [answerOffer]
  (repeat' split) <;> first | exact h | (simp (maxDischargeDepth := 12) [h]; done)

@[simp] theorem locks_beginFrame (k f) (h : Interlocks s) : Interlocks (beginFrame k f s) := by
  simp only [beginFrame]
  (repeat' split) <;> first | exact h | (simp (maxDischargeDepth := 12) [h]; done)

@[simp] theorem locks_withdrawSlot (k) (h : Interlocks s) : Interlocks (withdrawSlot k s) := by
  simp only [withdrawSlot]
  (repeat' split) <;> first | exact h | (simp (maxDischargeDepth := 12) [h]; done)

@[simp] theorem locks_accessAt (k) (h : Interlocks s) : Interlocks (accessAt k s).1 := by
  simp only [accessAt]
  (repeat' split) <;> first | exact h | (simp (maxDischargeDepth := 12) [h]; done)

@[simp] theorem locks_isolatedRise (h : Interlocks s) : Interlocks (isolatedRise s).1 := by
  simp only [isolatedRise]
  (repeat' split) <;> first | exact h | (simp (maxDischargeDepth := 12) [h]; done)

@[simp] theorem locks_offerTake (p) (h : Interlocks s) : Interlocks (offerTake p s) := by
  simp only [offerTake]
  (repeat' split) <;> first | exact h | (simp (maxDischargeDepth := 12) [h]; done)

@[simp] theorem locks_offerRefresh (p) (h : Interlocks s) : Interlocks (offerRefresh p s) := by
  simp only [offerRefresh]
  (repeat' split) <;> first | exact h | (simp (maxDischargeDepth := 12) [h]; done)

@[simp] theorem locks_lauAccess (h : Interlocks s) : Interlocks (lauAccess s).1 := by
  simp only [lauAccess]
  (repeat' split) <;> first | exact h | (simp (maxDischargeDepth := 12) [h]; done)

@[simp] theorem locks_claimReport (h : Interlocks s) : Interlocks (claimReport s).1 := by
  obtain ⟨hb, hp, hg, hh, hr, hm, hw, e1, e2, e3⟩ := @claimReport_dcu s
  constructor
  · rw [hr, hp, e1, reportedGrinder]
    split
    · rename_i hk
      intro hd
      refine ⟨hk, ?_⟩
      simp only [Bool.or_eq_true, Bool.and_eq_true, Bool.not_eq_true'] at hd
      rcases hd with hd | hd
      · exact (h.grinder hd).2
      · exact hd.2
    · simp
  · rw [hm, hb]; split <;> simp_all
  · rw [hw, hb]; split <;> simp_all
  · rw [hh, hg, e3]; exact heaterNow_le
  · rw [hh, e2]; exact fun e => heaterNow_barred e

@[simp] theorem locks_stuLower (h : Interlocks s) : Interlocks (stuLower s).1 := by
  simp only [stuLower]
  (repeat' split) <;> first | exact h | (simp (maxDischargeDepth := 12) [h]; done)

@[simp] theorem locks_stuRise (p) (h : Interlocks s) : Interlocks (stuRise p s).1 := by
  simp only [stuRise]
  (repeat' split) <;> first | exact h | (simp (maxDischargeDepth := 12) [h]; done)

@[simp] theorem locks_stuRetry (h : Interlocks s) : Interlocks (stuRetry s) := by
  simp only [stuRetry]
  (repeat' split) <;> first | exact h | (simp (maxDischargeDepth := 12) [h]; done)

@[simp] theorem locks_stuHeatWish (v) (h : Interlocks s) : Interlocks (stuHeatWish v s).1 := by
  simp only [stuHeatWish]
  (repeat' split) <;> first | exact h | (simp (maxDischargeDepth := 12) [h]; done)

@[simp] theorem locks_stuGrindWish (b) (h : Interlocks s) : Interlocks (stuGrindWish b s).1 := by
  simp only [stuGrindWish]
  (repeat' split) <;> first | exact h | (simp (maxDischargeDepth := 12) [h]; done)

@[simp] theorem locks_stuCleanWish (b) (h : Interlocks s) : Interlocks (stuCleanWish b s).1 := by
  simp only [stuCleanWish]
  (repeat' split) <;> first | exact h | (simp (maxDischargeDepth := 12) [h]; done)

@[simp] theorem locks_stuNeed (h : Interlocks s) : Interlocks (stuNeed s) := by
  simp only [stuNeed]
  (repeat' split) <;> first | exact h | (simp (maxDischargeDepth := 12) [h]; done)

@[simp] theorem locks_grcRunEnded (cap) (h : Interlocks s) : Interlocks (grcRunEnded cap s).1 := by
  simp only [grcRunEnded]
  (repeat' split) <;> first | exact h | (simp (maxDischargeDepth := 12) [h]; done)

@[simp] theorem locks_brcRunEnded (cap) (h : Interlocks s) : Interlocks (brcRunEnded cap s).1 := by
  simp only [brcRunEnded]
  (repeat' split) <;> first | exact h | (simp (maxDischargeDepth := 12) [h]; done)

@[simp] theorem locks_clcRunEnded (cap) (h : Interlocks s) : Interlocks (clcRunEnded cap s).1 := by
  simp only [clcRunEnded]
  (repeat' split) <;> first | exact h | (simp (maxDischargeDepth := 12) [h]; done)

@[simp] theorem locks_rateUpdate (c cap) (h : Interlocks s) : Interlocks (rateUpdate c cap s) := by
  simp only [rateUpdate]
  split
  · exact locks_onCounter _ _ (by intro k; split <;> rfl) h
  · exact h

@[simp] theorem locks_stopEvent (r) (_h : Interlocks s) : Interlocks (stopEvent r s).1 := by
  simp only [stopEvent]
  exact locks_stopLevels

@[simp] theorem locks_grcStop (h : Interlocks s) : Interlocks (grcStop s).1 := by
  simp only [grcStop]
  (repeat' split) <;> first | exact h | (simp (maxDischargeDepth := 12) [h]; done)

@[simp] theorem locks_brcStop (r) (h : Interlocks s) : Interlocks (brcStop r s).1 := by
  simp only [brcStop]
  (repeat' split) <;> first | exact h | (simp (maxDischargeDepth := 12) [h]; done)

@[simp] theorem locks_clcStop (r) (h : Interlocks s) : Interlocks (clcStop r s).1 := by
  simp only [clcStop]
  (repeat' split) <;> first | exact h | (simp (maxDischargeDepth := 12) [h]; done)

@[simp] theorem locks_grcGranted (h : Interlocks s) : Interlocks (grcGranted s).1 := by
  simp only [grcGranted]
  (repeat' split) <;> first | exact h | (simp (maxDischargeDepth := 12) [h]; done)

@[simp] theorem locks_grcWithdrawn (h : Interlocks s) : Interlocks (grcWithdrawn s).1 := by
  simp only [grcWithdrawn]
  (repeat' split) <;> first | exact h | (simp (maxDischargeDepth := 12) [h]; done)

@[simp] theorem locks_grcStartGrinder (h : Interlocks s) : Interlocks (grcStartGrinder s).1 := by
  simp only [grcStartGrinder]
  split
  · exact h
  · split
    · rename_i hs
      simp [locks_grinderOn hs h]
    · (repeat' split) <;> simp [h]

@[simp] theorem locks_brcEnter (st) (h : Interlocks s) : Interlocks (brcEnter st s).1 := by
  simp only [brcEnter]
  (repeat' split) <;> first | exact h | (simp (maxDischargeDepth := 12) [h]; done)

@[simp] theorem locks_brcMove (up) (h : Interlocks s) : Interlocks (brcMove up s).1 := by
  simp only [brcMove]
  (repeat' split) <;> first
    | exact h
    | (rename_i hb
       simp only [Bool.or_eq_true, Bool.not_eq_true', not_or, Bool.not_eq_true, Bool.not_eq_false] at hb
       have hu := locks_setBrewer .up (.inr hb.2) h
       have hd := locks_setBrewer .down (.inr hb.2) h
       simp [hu, hd])

@[simp] theorem locks_brcArrived (b) (h : Interlocks s) : Interlocks (brcArrived b s).1 := by
  simp only [brcArrived]
  (repeat' split) <;> first | exact h | (simp (maxDischargeDepth := 12) [h]; done)

@[simp] theorem locks_brcEject (h : Interlocks s) : Interlocks (brcEject s).1 := by
  simp only [brcEject]
  (repeat' split) <;> first | exact h | (simp (maxDischargeDepth := 12) [h]; done)

@[simp] theorem locks_brcStopOver (h : Interlocks s) : Interlocks (brcStopOver s).1 := by
  simp only [brcStopOver]
  (repeat' split) <;> first | exact h | (simp (maxDischargeDepth := 12) [h]; done)

@[simp] theorem locks_brcProceed (h : Interlocks s) : Interlocks (brcProceed s).1 := by
  simp only [brcProceed]
  (repeat' split) <;> first | exact h | (simp (maxDischargeDepth := 12) [h]; done)

@[simp] theorem locks_brcUnitIdle (h : Interlocks s) : Interlocks (brcUnitIdle s).1 := by
  simp only [brcUnitIdle]
  (repeat' split) <;> first | exact h | (simp (maxDischargeDepth := 12) [h]; done)

@[simp] theorem locks_brcOffer (h : Interlocks s) : Interlocks (brcOffer s).1 := by
  simp only [brcOffer]
  (repeat' split) <;> first | exact h | (simp (maxDischargeDepth := 12) [h]; done)

@[simp] theorem locks_brcHeat (h : Interlocks s) : Interlocks (brcHeat s).1 := by
  simp only [brcHeat]
  (repeat' split) <;> first | exact h | (simp (maxDischargeDepth := 12) [h]; done)

@[simp] theorem locks_brcRegulator (h : Interlocks s) : Interlocks (brcRegulator s).1 := by
  simp only [brcRegulator]
  (repeat' split) <;> first | exact h | (simp (maxDischargeDepth := 12) [h]; done)

@[simp] theorem locks_brcReadyCheck (h : Interlocks s) : Interlocks (brcReadyCheck s).1 := by
  simp only [brcReadyCheck]
  (repeat' split) <;> first | exact h | (simp (maxDischargeDepth := 12) [h]; done)

@[simp] theorem locks_brcNoBase (h : Interlocks s) : Interlocks (brcNoBase s).1 := by
  simp only [brcNoBase]
  (repeat' split) <;> first | exact h | (simp (maxDischargeDepth := 12) [h]; done)

@[simp] theorem locks_brcLineLost (h : Interlocks s) : Interlocks (brcLineLost s).1 := by
  simp only [brcLineLost]
  (repeat' split) <;> first | exact h | (simp (maxDischargeDepth := 12) [h]; done)

@[simp] theorem locks_brcGrindReport (r) (h : Interlocks s) : Interlocks (brcGrindReport r s).1 := by
  simp only [brcGrindReport]
  (repeat' split) <;> first | exact h | (simp (maxDischargeDepth := 12) [h]; done)

@[simp] theorem locks_brcGrindRefused (h : Interlocks s) : Interlocks (brcGrindRefused s).1 := by
  simp only [brcGrindRefused]
  (repeat' split) <;> first | exact h | (simp (maxDischargeDepth := 12) [h]; done)

@[simp] theorem locks_brcServeStep (h : Interlocks s) : Interlocks (brcServeStep s).1 := by
  simp only [brcServeStep]
  (repeat' split) <;> first | exact h | (simp (maxDischargeDepth := 12) [h]; done)

@[simp] theorem locks_brcStepEnd (h : Interlocks s) : Interlocks (brcStepEnd s).1 := by
  simp only [brcStepEnd]
  (repeat' split) <;> first | exact h | (simp (maxDischargeDepth := 12) [h]; done)

@[simp] theorem locks_oruStart (h : Interlocks s) : Interlocks (oruStart s).1 := by
  simp only [oruStart]
  (repeat' split) <;> first | exact h | (simp (maxDischargeDepth := 12) [h]; done)

@[simp] theorem locks_oruOffer (h : Interlocks s) : Interlocks (oruOffer s).1 := by
  simp only [oruOffer]
  (repeat' split) <;> first | exact h | (simp (maxDischargeDepth := 12) [h]; done)

@[simp] theorem locks_oruGrindReady (h : Interlocks s) : Interlocks (oruGrindReady s).1 := by
  simp only [oruGrindReady]
  (repeat' split) <;> first | exact h | (simp (maxDischargeDepth := 12) [h]; done)

@[simp] theorem locks_oruGrindReport (r) (h : Interlocks s) : Interlocks (oruGrindReport r s).1 := by
  simp only [oruGrindReport]
  (repeat' split) <;> first | exact h | (simp (maxDischargeDepth := 12) [h]; done)

@[simp] theorem locks_oruRunEnd (r) (h : Interlocks s) : Interlocks (oruRunEnd r s).1 := by
  simp only [oruRunEnd]
  (repeat' split) <;> first | exact h | (simp (maxDischargeDepth := 12) [h]; done)

@[simp] theorem locks_oruFaultSet (h : Interlocks s) : Interlocks (oruFaultSet s).1 := by
  simp only [oruFaultSet]
  (repeat' split) <;> first | exact h | (simp (maxDischargeDepth := 12) [h]; done)

@[simp] theorem locks_oruCupPending (h : Interlocks s) : Interlocks (oruCupPending s).1 := by
  simp only [oruCupPending]
  (repeat' split) <;> first | exact h | (simp (maxDischargeDepth := 12) [h]; done)

@[simp] theorem locks_clcOffer (h : Interlocks s) : Interlocks (clcOffer s).1 := by
  simp only [clcOffer]
  (repeat' split) <;> first | exact h | (simp (maxDischargeDepth := 12) [h]; done)

@[simp] theorem locks_clcGranted (h : Interlocks s) : Interlocks (clcGranted s).1 := by
  simp only [clcGranted]
  (repeat' split) <;> first | exact h | (simp (maxDischargeDepth := 12) [h]; done)

@[simp] theorem locks_clcLineLost (h : Interlocks s) : Interlocks (clcLineLost s).1 := by
  simp only [clcLineLost]
  (repeat' split) <;> first | exact h | (simp (maxDischargeDepth := 12) [h]; done)

@[simp] theorem locks_clcStepDown (h : Interlocks s) : Interlocks (clcStepDown s).1 := by
  simp only [clcStepDown]
  (repeat' split) <;> first | exact h | (simp (maxDischargeDepth := 12) [h]; done)

@[simp] theorem locks_brcGrindCancelAnswer (a) (h : Interlocks s) : Interlocks (brcGrindCancelAnswer a s).1 := h

@[simp] theorem locks_clcMoveStopped (h : Interlocks s) : Interlocks (clcMoveStopped s).1 := h

@[simp] theorem locks_clcReady (h : Interlocks s) : Interlocks (clcReady s).1 := by
  simp only [clcReady]
  (repeat' split) <;> first | exact h | (simp (maxDischargeDepth := 12) [h]; done)

@[simp] theorem locks_clcPositioned (h : Interlocks s) : Interlocks (clcPositioned s).1 := by
  simp only [clcPositioned]
  (repeat' split) <;> first | exact h | (simp (maxDischargeDepth := 12) [h]; done)

@[simp] theorem locks_clcStrokesDone (h : Interlocks s) : Interlocks (clcStrokesDone s).1 := by
  simp only [clcStrokesDone]
  (repeat' split) <;> first | exact h | (simp (maxDischargeDepth := 12) [h]; done)

@[simp] theorem locks_clcCupPending (h : Interlocks s) : Interlocks (clcCupPending s).1 := by
  simp only [clcCupPending]
  (repeat' split) <;> first | exact h | (simp (maxDischargeDepth := 12) [h]; done)

@[simp] theorem locks_clcRequest (h : Interlocks s) : Interlocks (clcRequest s).1 := by
  simp only [clcRequest]
  (repeat' split) <;> first | exact h | (simp (maxDischargeDepth := 12) [h]; done)

@[simp] theorem locks_clcStepTail (h : Interlocks s) : Interlocks (clcStepTail s).1 := by
  simp only [clcStepTail]
  (repeat' split) <;> first | exact h | (simp (maxDischargeDepth := 12) [h]; done)

@[simp] theorem locks_clcSlotWait (h : Interlocks s) : Interlocks (clcSlotWait s).1 := by
  simp only [clcSlotWait]
  (repeat' split) <;> first | exact h | (simp (maxDischargeDepth := 12) [h]; done)

@[simp] theorem locks_pyuGuardEnd (h : Interlocks s) : Interlocks (pyuGuardEnd s).1 := by
  simp only [pyuGuardEnd]
  (repeat' split) <;> first | exact h | (simp (maxDischargeDepth := 12) [h]; done)

@[simp] theorem locks_pyuDispute (q) (h : Interlocks s) : Interlocks (pyuDispute q s).1 := by
  simp only [pyuDispute]
  (repeat' split) <;> first | exact h | (simp (maxDischargeDepth := 12) [h]; done)

@[simp] theorem locks_pyuJoin (h : Interlocks s) : Interlocks (pyuJoin s) := by
  simp only [pyuJoin]
  (repeat' split) <;> first | exact h | (simp (maxDischargeDepth := 12) [h]; done)

@[simp] theorem locks_pyuStaleCleared (h : Interlocks s) : Interlocks (pyuStaleCleared s) := by
  simp only [pyuStaleCleared]
  (repeat' split) <;> first | exact h | (simp (maxDischargeDepth := 12) [h]; done)

@[simp] theorem locks_pyuTakePosted (g q) (h : Interlocks s) : Interlocks (pyuTakePosted g q s) := by
  simp only [pyuTakePosted]
  (repeat' split) <;> first | exact h | (simp (maxDischargeDepth := 12) [h]; done)

@[simp] theorem locks_pyuTakeGivenUp (g) (h : Interlocks s) : Interlocks (pyuTakeGivenUp g s).1 := by
  simp only [pyuTakeGivenUp]
  (repeat' split) <;> first | exact h | (simp (maxDischargeDepth := 12) [h]; done)

@[simp] theorem locks_pyuHoldCleared (b) (h : Interlocks s) : Interlocks (pyuHoldCleared b s).1 := by
  simp only [pyuHoldCleared]
  (repeat' split) <;> first | exact h | (simp (maxDischargeDepth := 12) [h]; done)

@[simp] theorem locks_pyuHoldTest (n b q) (h : Interlocks s) : Interlocks (pyuHoldTest n b q s) := by
  simp only [pyuHoldTest]
  (repeat' split) <;> first | exact h | (simp (maxDischargeDepth := 12) [h]; done)

end Sys2Proof.Machine
end

