-- ==== Sys2Proof/Laws/InterlockCommands.lean ====
section
/-! SUPPORT. The interlocks of the drive channels are kept by whole actions, by the effects of the input and line commands, and by the requests of the panel link. -/

namespace Sys2Proof.Machine

variable {s t : State}

/-! ### Whole actions -/

theorem locks_perform (a : Act) (h : Interlocks s) : Interlocks (perform a s).1 := by
  cases a
  case runEnded o cap => cases o <;> simp [perform, h]
  all_goals simp [perform, h]

/-- An action keeps the interlocks that its own effect left. -/
theorem locks_react (e : Eff) (h : Interlocks e.1) : Interlocks (react e) :=
  react_keeps Interlocks (fun a _ hs => locks_perform a hs) e h

/-! ### The line and the share table -/

@[simp] theorem locks_staleMark (b) (h : Interlocks s) : Interlocks (staleMark b s) := by
  simp only [staleMark]
  (repeat' split) <;> first | exact h | (simp (maxDischargeDepth := 12) [h]; done)

@[simp] theorem locks_stuWithdraw (h : Interlocks s) : Interlocks (stuWithdraw s).1 := by
  simp only [stuWithdraw]
  (repeat' split) <;> first | exact h | (simp (maxDischargeDepth := 12) [h]; done)

@[simp] theorem locks_setGuard (h : Interlocks s) : Interlocks (setGuard s) := by
  simp only [setGuard]
  (repeat' split) <;> first | exact h | (simp (maxDischargeDepth := 12) [h]; done)

@[simp] theorem locks_restartIdle (h : Interlocks s) : Interlocks (restartIdle s) := by
  simp only [restartIdle]
  (repeat' split) <;> first | exact h | (simp (maxDischargeDepth := 12) [h]; done)

@[simp] theorem locks_toHunt (h : Interlocks s) : Interlocks (toHunt s) := by
  simp only [toHunt]
  (repeat' split) <;> first | exact h | (simp (maxDischargeDepth := 12) [h]; done)

@[simp] theorem locks_setEntry (n e) (h : Interlocks s) : Interlocks (setEntry n e s) := by
  simp only [setEntry]
  (repeat' split) <;> first | exact h | (simp (maxDischargeDepth := 12) [h]; done)

@[simp] theorem locks_noteSeq (n q) (h : Interlocks s) : Interlocks (noteSeq n q s) := by
  simp only [noteSeq]
  (repeat' split) <;> first | exact h | (simp (maxDischargeDepth := 12) [h]; done)

@[simp] theorem locks_staleClear (h : Interlocks s) : Interlocks (staleClear s).1 := by
  simp only [staleClear]
  (repeat' split) <;> first | exact h | (simp (maxDischargeDepth := 12) [h]; done)

@[simp] theorem locks_leaveAwaited (n) (h : Interlocks s) : Interlocks (leaveAwaited n s) := by simp [leaveAwaited, h]

@[simp] theorem locks_heardAwaited (n) (h : Interlocks s) : Interlocks (heardAwaited n s).1 := by
  simp only [heardAwaited]
  split <;> simp [h]

@[simp] theorem locks_disputeTest (a b c d) (h : Interlocks s) : Interlocks (disputeTest a b c d s) := by
  simp only [disputeTest]
  (repeat' split) <;> first | exact h | (simp (maxDischargeDepth := 12) [h]; done)

@[simp] theorem locks_noteMismatch (a b c d e) (h : Interlocks s) : Interlocks (noteMismatch a b c d e s) := by
  simp only [noteMismatch]
  (repeat' split) <;> first | exact h | (simp (maxDischargeDepth := 12) [h]; done)

@[simp] theorem locks_dropDispute (a b) (h : Interlocks s) : Interlocks (dropDispute a b s) := by
  simp only [dropDispute]
  (repeat' split) <;> first | exact h | (simp (maxDischargeDepth := 12) [h]; done)

@[simp] theorem locks_isolate (h : Interlocks s) : Interlocks (isolate s).1 := by
  simp only [isolate]
  (repeat' split) <;> first | exact h | (simp (maxDischargeDepth := 12) [h]; done)

@[simp] theorem locks_rejoin (h : Interlocks s) : Interlocks (rejoin s).1 := by
  simp only [rejoin]
  (repeat' split) <;> first | exact h | (simp (maxDischargeDepth := 12) [h]; done)

@[simp] theorem locks_claimPosted (q) (h : Interlocks s) : Interlocks (claimPosted q s) := by
  simp only [claimPosted]
  (repeat' split) <;> first | exact h | (simp (maxDischargeDepth := 12) [h]; done)

@[simp] theorem locks_notePosted (o q) (h : Interlocks s) : Interlocks (notePosted o q s).1 := by
  simp only [notePosted]
  (repeat' split) <;> first | exact h | (simp (maxDischargeDepth := 12) [h]; done)

@[simp] theorem locks_stuClaimFailed (q b) (h : Interlocks s) : Interlocks (stuClaimFailed q b s) := by
  simp only [stuClaimFailed]
  (repeat' split) <;> first | exact h | (simp (maxDischargeDepth := 12) [h]; done)

@[simp] theorem locks_noteFailed (o q b) (h : Interlocks s) : Interlocks (noteFailed o q b s).1 := by
  simp only [noteFailed]
  (repeat' split) <;> first | exact h | (simp (maxDischargeDepth := 12) [h]; done)

@[simp] theorem locks_stuGuardEnd (h : Interlocks s) : Interlocks (stuGuardEnd s).1 := by
  simp only [stuGuardEnd]
  (repeat' split) <;> first | exact h | (simp (maxDischargeDepth := 12) [h]; done)

@[simp] theorem locks_frameEnd (f) (h : Interlocks s) : Interlocks (frameEnd f s) := by
  simp only [frameEnd]
  (repeat' split) <;> first | exact h | (simp (maxDischargeDepth := 12) [h]; done)

@[simp] theorem locks_sameStation (f) (h : Interlocks s) : Interlocks (sameStation f s) := by
  simp only [sameStation]
  (repeat' split) <;> first | exact h | (simp (maxDischargeDepth := 12) [h]; done)

@[simp] theorem locks_stuDeliver (n f) (h : Interlocks s) : Interlocks (stuDeliver n f s).1 := by
  cases f <;> simp only [stuDeliver, stuJoin, stuClaim, stuHold, stuNeedHeard, stuDispute] <;>
  (repeat' split) <;> first | exact h | (simp (maxDischargeDepth := 12) [h]; done)

@[simp] theorem locks_deliver (n f) (h : Interlocks s) : Interlocks (deliver n f s).1 := by
  simp only [deliver]
  (repeat' split) <;> first | exact h | (simp (maxDischargeDepth := 12) [h]; done)

@[simp] theorem locks_damaged (h : Interlocks s) : Interlocks (damaged s).1 := by
  simp only [damaged, stuDamaged]
  (repeat' split) <;> first | exact h | (simp (maxDischargeDepth := 12) [h]; done)

@[simp] theorem locks_framePosted (h : Interlocks s) : Interlocks (framePosted s).1 := by
  simp only [framePosted]
  (repeat' split) <;> first | exact h | (simp (maxDischargeDepth := 12) [h]; done)

@[simp] theorem locks_collision (h : Interlocks s) : Interlocks (collision s).1 := by
  simp only [collision]
  (repeat' split) <;> first | exact h | (simp (maxDischargeDepth := 12) [h]; done)

@[simp] theorem locks_guardEnd (h : Interlocks s) : Interlocks (guardEnd s).1 := by
  simp only [guardEnd]
  (repeat' split) <;> first | exact h | (simp (maxDischargeDepth := 12) [h]; done)

@[simp] theorem locks_rxHeader (d) (h : Interlocks s) : Interlocks (rxHeader d s) := by
  simp only [rxHeader]
  (repeat' split) <;> first | exact h | (simp (maxDischargeDepth := 12) [h]; done)

@[simp] theorem locks_rxBody (f d) (h : Interlocks s) : Interlocks (rxBody f d s).1 := by
  simp only [rxBody]
  (repeat' split) <;> first | exact h | (simp (maxDischargeDepth := 12) [h]; done)

@[simp] theorem locks_rxComplete (f) (h : Interlocks s) : Interlocks (rxComplete f s).1 := by
  simp only [rxComplete]
  (repeat' split) <;> first | exact h | (simp (maxDischargeDepth := 12) [h]; done)

@[simp] theorem locks_rxCheck (f d) (h : Interlocks s) : Interlocks (rxCheck f d s).1 := by
  simp only [rxCheck]
  (repeat' split) <;> first | exact h | (simp (maxDischargeDepth := 12) [h]; done)

@[simp] theorem locks_rxTake (d f g) (h : Interlocks s) : Interlocks (rxTake d f g s).1 := by
  simp only [rxTake]
  (repeat' split) <;> first | exact h | (simp (maxDischargeDepth := 12) [h]; done)

@[simp] theorem locks_rxCharacter (d f g) (h : Interlocks s) : Interlocks (rxCharacter d f g s).1 :=
  locks_rxTake d f g (locks_setLine _ h)

@[simp] theorem locks_rxIdle (h : Interlocks s) : Interlocks (rxIdle s).1 := by
  simp only [rxIdle]
  (repeat' split) <;> first | exact h | (simp (maxDischargeDepth := 12) [h]; done)

@[simp] theorem locks_lineBreak (h : Interlocks s) : Interlocks (lineBreak s) := by
  simp only [lineBreak]
  (repeat' split) <;> first | exact h | (simp (maxDischargeDepth := 12) [h]; done)

@[simp] theorem locks_syncOpen (h : Interlocks s) : Interlocks (syncOpen s) := by
  simp only [syncOpen]
  (repeat' split) <;> first | exact h | (simp (maxDischargeDepth := 12) [h]; done)

@[simp] theorem locks_syncClose (h : Interlocks s) : Interlocks (syncClose s) := by
  simp only [syncClose]
  (repeat' split) <;> first | exact h | (simp (maxDischargeDepth := 12) [h]; done)

@[simp] theorem locks_lineLow (b) (h : Interlocks s) : Interlocks (lineLow b s) := by
  simp only [lineLow]
  (repeat' split) <;> first | exact h | (simp (maxDischargeDepth := 12) [h]; done)

@[simp] theorem locks_leaseExpire (n) (h : Interlocks s) : Interlocks (leaseExpire n s).1 := by
  simp only [leaseExpire]
  (repeat' split) <;> first | exact h | (simp (maxDischargeDepth := 12) [h]; done)

@[simp] theorem locks_holdExpire (n) (h : Interlocks s) : Interlocks (holdExpire n s).1 := by
  simp only [holdExpire]
  (repeat' split) <;> first | exact h | (simp (maxDischargeDepth := 12) [h]; done)

@[simp] theorem locks_renewal (h : Interlocks s) : Interlocks (renewal s).1 := by
  simp only [renewal]
  (repeat' split) <;> first | exact h | (simp (maxDischargeDepth := 12) [h]; done)

/-! ### Counting, grinding and brewing -/

/-- A state with GRINDER OFF that agrees on the other channels. -/
theorem locks_of_off (hg : t.dcu.grinder = false) (hp : t.dcu.pump = s.dcu.pump) (hw : t.dcu.brewer = s.dcu.brewer)
    (hb : t.dcu.basePerm = s.dcu.basePerm) (hh : t.dcu.heater = s.dcu.heater) (hd : t.dcu.granted = s.dcu.granted)
    (hc : t.conf = s.conf) (ho : t.heaterBarred = s.heaterBarred) (h : Interlocks s) : Interlocks t := by
  obtain ⟨-, h2, h3, h4, h5⟩ := h
  exact ⟨fun e => absurd e (by simp [hg]), by rwa [hp, hb], by rwa [hw, hb], by rwa [hh, hc, hd], by rwa [ho, hh]⟩

@[simp] theorem endRun_conf (c k) : (endRun c k s).1.conf = s.conf := by cases c <;> rfl
@[simp] theorem endRun_heaterBarred (c k) : (endRun c k s).1.heaterBarred = s.heaterBarred := by cases c <;> rfl

theorem locks_endRun_off (c k) (hg : s.dcu.grinder = false) (h : Interlocks s) : Interlocks (endRun c k s).1 :=
  locks_of_off (s := s) (by simp [hg]) (by simp) (by simp) (by simp) (by simp) (by simp) (by simp) (by simp) h

@[simp] theorem locks_terminalCount (c) (h : Interlocks s) : Interlocks (terminalCount c s).1 := by
  cases c
  · simp only [terminalCount, oneShot]
    exact locks_endRun_off _ _ (setGrinder_grinder _) (locks_setGrinder_off h)
  · simp only [terminalCount, oneShot, endRun]
    exact locks_counter_free _ _ (by intro k; simp [endedCounter]) (locks_setPump_zero h)

@[simp] theorem locks_timeEnd (c) (h : Interlocks s) : Interlocks (timeEnd c s).1 := by
  simp only [timeEnd]
  refine locks_endRun _ _ (by simp) ?_
  cases c <;> simp [oneShot, h]

@[simp] theorem locks_flowCount (h : Interlocks s) : Interlocks (flowCount s) := by
  simp only [flowCount]
  (repeat' split) <;> first | exact h | (simp (maxDischargeDepth := 12) [h]; done)

theorem edgeCounter_run (n now : Nat) (k : Counter) : (edgeCounter n now k).run = k.run := by
  simp only [edgeCounter, monitorEdge]; split <;> rfl

@[simp] theorem locks_edge (c n m) (h : Interlocks s) : Interlocks (onCounter c (edgeCounter n m) s) :=
  locks_onCounter _ _ (edgeCounter_run n m) h

@[simp] theorem locks_flowRise (h : Interlocks s) : Interlocks (flowRise s).1 := by
  simp only [flowRise]
  (repeat' split) <;> first | exact h | (simp (maxDischargeDepth := 12) [h]; done)

/-- Input lines that bar no more than before. -/
theorem locks_onPins (f : Pins → Pins) (hg : s.dcu.grinder = true → s.grinderBarred = false → (s.onPins f).grinderBarred = false)
    (ho : (s.onPins f).heaterBarred = true → s.heaterBarred = true ∨ s.dcu.heater = 0) (h : Interlocks s) : Interlocks (s.onPins f) := by
  obtain ⟨h1, h2, h3, h4, h5⟩ := h
  refine ⟨?_, h2, h3, h4, ?_⟩
  · intro e
    obtain ⟨a, b⟩ := h1 e
    exact ⟨a, hg e b⟩
  · intro e
    rcases ho e with ho | ho
    · exact h5 ho
    · exact ho

@[simp] theorem locks_pins_free (f : Pins → Pins) (h1 : ∀ p : Pins, (f p).lidOpen = p.lidOpen) (h2 : ∀ p : Pins, (f p).grOvld = p.grOvld)
    (h3 : ∀ p : Pins, (f p).boilOvht = p.boilOvht) (h : Interlocks s) : Interlocks (s.onPins f) := by
  refine locks_onPins f ?_ ?_ h
  · intro _ e; simpa [State.grinderBarred, h1, h2] using e
  · intro e; left; simpa [State.heaterBarred, h3] using e

@[simp] theorem locks_encoderMove (a b) (h : Interlocks s) : Interlocks (encoderMove a b s).1 := by
  simp only [encoderMove]
  (repeat' split) <;> first | exact h | (simp (maxDischargeDepth := 12) [h]; done)

@[simp] theorem locks_cnuSkips (f : Nat → Nat) (h : Interlocks s) : Interlocks (s.onCnu fun u => { u with skips := f u.skips }) :=
  Interlocks.of_drive (s := s) rfl h

theorem locks_encoderChange (a b) (h : Interlocks s) : Interlocks (encoderChange a b s).1 := by
  have hp : Interlocks (s.onPins fun p => { p with encA := a, encB := b }) := by simp [h]
  simp only [encoderChange]
  (repeat' split)
  · exact hp
  · exact locks_cnuSkips (fun n => min 255 (n + 1)) hp
  · exact locks_encoderMove _ _ hp

/-- Nothing that draws power is driven. -/
def State.still (s : State) : Prop := s.dcu.heater = 0 ∧ s.dcu.pump = 0 ∧ s.dcu.grinder = false ∧ s.dcu.brewer = .stop

theorem locks_grinderLineAsserted (f : Pins → Pins) (h3 : ∀ p : Pins, (f p).boilOvht = p.boilOvht) (h : Interlocks s) :
    Interlocks (grinderLineAsserted (s.onPins f)) := by
  refine locks_of_off (s := s) ?_ ?_ ?_ ?_ ?_ ?_ ?_ ?_ h
  all_goals first
    | (simp only [grinderLineAsserted, onDcu_dcu, setGrinder_grinder]; done)
    | (simp only [grinderLineAsserted, onDcu_conf, setGrinder_conf]; rfl)
    | (simp only [grinderLineAsserted, onDcu_heaterBarred, setGrinder_heaterBarred]; simp [State.heaterBarred, h3]; done)
    | (simp [grinderLineAsserted, -setGrinder_dcu]; done)

@[simp] theorem clearServiceWish_dcu : (clearServiceWish s).1.dcu = s.dcu := by simp only [clearServiceWish]; split <;> rfl

theorem locks_lidChange (b) (hw : s.working = false → s.still) (h : Interlocks s) : Interlocks (lidChange b s).1 := by
  have h2 := locks_grinderLineAsserted (s := s) (fun p => { p with lidOpen := b }) (fun _ => rfl) h
  simp only [lidChange]
  split
  · rename_i hc
    simp only [Bool.or_eq_true, Bool.not_eq_true'] at hc
    refine locks_onPins (s := s) (fun p => { p with lidOpen := b }) ?_ ?_ h
    · intro hg
      rcases hc with (rfl | hl) | hn
      · simp only [State.grinderBarred]; simp; grind
      · simp [State.grinderBarred, hl]
      · exact absurd hg (by simp [(hw hn).2.2.1])
    · intro e; left; simpa [State.heaterBarred] using e
  · (repeat' split) <;> first | exact h2 | (simp (maxDischargeDepth := 12) [h2]; done)

theorem locks_overloadChange (b) (hw : s.working = false → s.still) (h : Interlocks s) : Interlocks (overloadChange b s).1 := by
  have h2 := locks_grinderLineAsserted (s := s) (fun p => { p with grOvld := b }) (fun _ => rfl) h
  simp only [overloadChange]
  split
  · rename_i hc
    simp only [Bool.or_eq_true, Bool.not_eq_true'] at hc
    refine locks_onPins (s := s) (fun p => { p with grOvld := b }) ?_ ?_ h
    · intro hg
      rcases hc with (rfl | hl) | hn
      · simp only [State.grinderBarred]; simp; grind
      · simp [State.grinderBarred, hl]
      · exact absurd hg (by simp [(hw hn).2.2.1])
    · intro e; left; simpa [State.heaterBarred] using e
  · split
    · exact locks_failRun _ _ h2
    · exact h2
    all_goals
      split
      · refine locks_countOverload ?_ ?_
        · simp only [clearServiceWish_dcu, grinderLineAsserted, onDcu_dcu, setGrinder_grinder]
        · simp (maxDischargeDepth := 12) [h2]
      · simp (maxDischargeDepth := 12) [h2]

theorem locks_switchChange (a b) (h : Interlocks s) : Interlocks (switchChange a b s).1 := by
  simp only [switchChange]
  (repeat' split) <;> first | exact h | (simp (maxDischargeDepth := 12) [h]; done)
theorem locks_drawerChange (b) (h : Interlocks s) : Interlocks (drawerChange b s).1 := by
  have hp : Interlocks (s.onPins fun p => { p with drawerIn := b }) := by simp [h]
  have hb : ∀ n t, Interlocks t → Interlocks (t.onBrc fun k =>
      if b && !k.drawerIn then { k with drawerIn := true, pucks := if k.retained then 1 else 0, drawerLimit := n }
      else { k with drawerIn := b }) :=
    fun n t ht => locks_onBrc _ (by intro k; split <;> rfl) ht
  have h2 := hb s.conf.drawerLimit _ hp
  simp only [drawerChange]
  split
  · exact hp
  · split
    · exact h2
    · split
      · exact h2
      · exact locks_moveOver h2
    · exact h2
    · exact h2
theorem locks_boilerChange (b) (h : Interlocks s) : Interlocks (boilerChange b s).1 := by
  simp only [boilerChange]
  (repeat' split) <;> first | exact h | (simp (maxDischargeDepth := 12) [h]; done)

theorem locks_overheatLatch (h1 : s.dcu.grinder = true → s.dcu.grindPerm = true ∧ s.grinderBarred = false)
    (h2 : 0 < s.dcu.pump → s.dcu.basePerm = true) (h3 : s.dcu.brewer ≠ .stop → s.dcu.basePerm = true) :
    Interlocks (overheatLatch s).1 := by
  simp only [overheatLatch, reportRegulator]
  exact locks_heatLoad_of h1 h2 h3

theorem locks_overheatChange (b) (hw : s.working = false → s.still) (h : Interlocks s) : Interlocks (overheatChange b s).1 := by
  simp only [overheatChange]
  split
  · rename_i hc
    simp only [Bool.or_eq_true, Bool.not_eq_true'] at hc
    refine locks_onPins (s := s) (fun p => { p with boilOvht := b }) ?_ ?_ h
    · intro _ e; exact e
    · intro e
      rcases hc with ((rfl | hl) | hn) | ho
      · left; simp_all [State.heaterBarred]
      · left; simp [State.heaterBarred, hl]
      · exact .inr (hw hn).1
      · left; simp [State.heaterBarred, ho]
  · exact locks_overheatLatch h.grinder h.pump h.brewer

@[simp] theorem locks_moveTimeout (h : Interlocks s) : Interlocks (moveTimeout s).1 := by
  simp only [moveTimeout]
  (repeat' split) <;> first | exact h | (simp (maxDischargeDepth := 12) [h]; done)
@[simp] theorem locks_extractionEnd (h : Interlocks s) : Interlocks (extractionEnd s).1 := by
  simp (maxDischargeDepth := 12) [extractionEnd, h]
@[simp] theorem locks_recoveryStart (h : Interlocks s) : Interlocks (recoveryStart s).1 := by
  simp (maxDischargeDepth := 12) [recoveryStart, h]
@[simp] theorem locks_grindPowerEnd (h : Interlocks s) : Interlocks (grindPowerEnd s).1 := by
  simp only [grindPowerEnd]
  (repeat' split) <;> first | exact h | (simp (maxDischargeDepth := 12) [h]; done)

/-! ### The panel link -/

theorem locks_place (k n a) (h : Interlocks a.state) : Interlocks (placeReply k n a) := Interlocks.of_drive (s := a.state) rfl h
theorem locks_request (k n a) (o : State → Answer) (ho : Interlocks (o s).state) (h : Interlocks s) : Interlocks (request k n a o s) := by
  simp only [request]; (repeat' split) <;> first | exact h | exact locks_place _ _ _ ho | exact locks_place _ _ _ h

@[simp] theorem locks_enterMode (m) (h : Interlocks s) : Interlocks (enterMode m s).1 := by
  simp only [enterMode]
  (repeat' split) <;> first | exact h | (simp (maxDischargeDepth := 12) [h]; done)

theorem locks_serviceLeave (h : Interlocks s) : Interlocks (serviceLeave s).1 := by
  simp (maxDischargeDepth := 12) [serviceLeave, h]

theorem locks_serviceReset (h : Interlocks s) : Interlocks (serviceReset s).1 := by
  obtain ⟨h1, h2, h3, h4, h5⟩ := h
  simp only [serviceReset]
  refine ⟨?_, h2, h3, h4, ?_⟩
  · intro e
    obtain ⟨a, b⟩ := h1 e
    refine ⟨a, ?_⟩
    simp only [State.grinderBarred, relatched] at b ⊢
    simp at b ⊢
    refine ⟨b.1.1, ?_⟩
    split <;> exact b.2
  · intro e
    apply h5
    simp [State.heaterBarred] at e ⊢
    grind

theorem locks_serviceDrive (c v e) (h : Interlocks s) (hd : serviceDrive c v s = .ok e) : Interlocks e.1 := by
  simp only [serviceDrive] at hd
  repeat' split at hd
  all_goals first | (cases hd; done) | cases hd
  · obtain ⟨h1, h2, h3, h4, h5⟩ := h
    exact ⟨h1, h2, h3, Nat.zero_le _, fun _ => rfl⟩
  · rename_i hb
    obtain ⟨h1, h2, h3, h4, h5⟩ := h
    exact ⟨h1, h2, h3, Nat.min_le_right _ _, fun e => absurd e hb⟩
  · rename_i hn
    refine locks_setPump _ ?_ (by simp [h])
    simp only [not_and, Bool.not_eq_false] at hn
    rcases Nat.eq_zero_or_pos v with hv | hv
    · exact .inl hv
    · exact .inr (hn hv)
  · simp only [serviceGrindOff, clearServiceWish]
    split <;> simp (maxDischargeDepth := 12) [h]
  · rename_i hb
    simp only [serviceGrindOn]
    have h1 : Interlocks (s.onDcu fun u => { u with holds := { u.holds with grinder := true }, serviceGrind := true }) := by simp [h]
    have h2 : Interlocks (if s.dcu.grindPerm = true then setGrinder true (s.onDcu fun u => { u with holds := { u.holds with grinder := true }, serviceGrind := true })
        else s.onDcu fun u => { u with holds := { u.holds with grinder := true }, serviceGrind := true }) := by
      split
      · rename_i hp
        exact locks_setGrinder _ (.inr ⟨hp, by simpa using hb⟩) h1
      · exact h1
    exact locks_onGrc _ (fun _ => rfl) h2
  · exact locks_moveOver h
  · simp only [serviceMove]
    (repeat' split) <;> first | exact h | exact locks_moveOver h
  all_goals exact Interlocks.of_drive (s := s) rfl h

theorem locks_cancelRun (n) (h : Interlocks s) : Interlocks (cancelRun n s).1 := by
  simp only [cancelRun, brcAbort]
  (repeat' split) <;> first | exact h | (simp (maxDischargeDepth := 12) [h]; done)

theorem locks_requests (h : Interlocks s) : (∀ n, Interlocks (reqLogAck n s)) ∧ Interlocks (reqStatus s) ∧ Interlocks (reqNoticeRead s) ∧ Interlocks (reqLogRead s)
   ∧ (∀ r z t m, Interlocks (reqOrder r z t m s)) ∧ (∀ n, Interlocks (reqCancel n s)) ∧ (∀ n, Interlocks (reqCleanRequest n s)) ∧ Interlocks (reqCleanCancel s)
   ∧ Interlocks (reqPromptDone s) ∧ Interlocks (reqServiceEnter s) ∧ Interlocks (reqServiceLeave s) ∧ Interlocks (reqServiceReset s) ∧ (∀ c v, Interlocks (reqServiceDrive c v s)) ∧ Interlocks (reqPartId s) := by
  refine ⟨?_, ?_, ?_, ?_, ?_, ?_, ?_, ?_, ?_, ?_, ?_, ?_, ?_, ?_⟩
  · intro n; refine locks_request _ _ _ _ ?_ h
    simp only [answerLogAck]; split
    · exact h
    · exact Interlocks.of_drive (s := s) rfl h
  · exact locks_request _ _ _ _ h h
  · exact locks_request _ _ _ _ (Interlocks.of_drive (s := s) rfl h) h
  · exact locks_request _ _ _ _ h h
  · intro r z t m; refine locks_request _ _ _ _ ?_ h
    simp only [answerOrder]
    (repeat' split)
    · exact h
    · exact h
    · refine locks_react _ ?_
      simp (maxDischargeDepth := 12) [admitOrder, h]
  · intro n; refine locks_request _ _ _ _ ?_ h
    simp only [answerCancel]; split
    · exact h
    · refine locks_react _ ?_
      simp only [cancelOrder]
      (repeat' split) <;> first | exact h | exact locks_cancelRun _ h | (simp (maxDischargeDepth := 12) [h]; done)
  · intro n; refine locks_request _ _ _ _ ?_ h
    simp only [answerCleanRequest]; split
    · exact h
    · refine locks_react _ ?_
      simp (maxDischargeDepth := 12) [h]
  · refine locks_request _ _ _ _ ?_ h
    simp only [answerCleanCancel]; split
    · exact h
    · exact locks_react _ (by simp [h])
  · refine locks_request _ _ _ _ ?_ h
    simp only [answerPromptDone]; split
    · exact locks_react _ (by simp [h])
    · exact h
  · refine locks_request _ _ _ _ ?_ h
    simp only [answerServiceEnter]; repeat' split
    all_goals first | exact h | exact locks_react _ (by simp [h])
  · refine locks_request _ _ _ _ ?_ h
    exact locks_react _ (locks_serviceLeave h)
  · refine locks_request _ _ _ _ ?_ h
    exact locks_react _ (locks_serviceReset h)
  · intro c v; refine locks_request _ _ _ _ ?_ h
    simp only [answerServiceDrive]; repeat' split
    all_goals first | exact h | exact locks_react _ (locks_serviceDrive _ _ _ h (by assumption))
  · exact locks_request _ _ _ _ h h

theorem locks_readReply (a b c) (h : Interlocks s) : Interlocks (readReply a b c s) := by
  simp only [readReply]; (repeat' split) <;> first | exact h | exact locks_onPlk _ h

theorem locks_panel (b) (h : Interlocks s) : Interlocks (panelTransfer b s) := by
  obtain ⟨a1,a2,a3,a4,a5,a6,a7,a8,a9,a10,a11,a12,a13,a14⟩ := locks_requests h
  simp only [panelTransfer, requestOf]
  (repeat' split) <;> first | exact h | exact locks_readReply _ _ _ h | exact locks_onPlk _ h | exact locks_place _ _ _ h | assumption | apply a1 | apply a5 | apply a6 | apply a7 | apply a13


end Sys2Proof.Machine
end

