-- ==== Sys2Proof/Laws/Till.lean ====
section
/-! SUPPORT. Which reports leave the purchase log, the order queue and the payment unit alone, and what the others do to
them: the log only grows at its tail within an action. -/

namespace Sys2Proof.Machine

variable {s : State}

/-- The blocks that hold money: the log, the order queue, the payment unit. -/
def State.till (s : State) : Plg × List Order × Pyu := (s.plg, s.oru.queue, s.pyu)

/-! ### Operations that leave the till alone -/

@[simp] theorem till_onPins (f) : (s.onPins f).till = s.till := rfl
@[simp] theorem till_setLine (b) : (setLine b s).till = s.till := rfl
@[simp] theorem till_onLau (f) : (s.onLau f).till = s.till := rfl
@[simp] theorem till_onStu (f) : (s.onStu f).till = s.till := rfl
@[simp] theorem till_onDcu (f) : (s.onDcu f).till = s.till := rfl
@[simp] theorem till_onCnu (f) : (s.onCnu f).till = s.till := rfl
@[simp] theorem till_onGrc (f) : (s.onGrc f).till = s.till := rfl
@[simp] theorem till_onBrc (f) : (s.onBrc f).till = s.till := rfl
@[simp] theorem till_onClc (f) : (s.onClc f).till = s.till := rfl
@[simp] theorem till_onPlk (f) : (s.onPlk f).till = s.till := rfl
@[simp] theorem till_onOru (f : Oru → Oru) (h : (f s.oru).queue = s.oru.queue) : (s.onOru f).till = s.till := by
  simp [State.till, h]

@[simp] theorem till_postNotice (k o c d1 d2) : (postNotice k o c d1 d2 s).till = s.till := by
  simp only [postNotice]
  (repeat' split) <;> first | rfl | (simp; done)

@[simp] theorem till_offerFrame (o) : (offerFrame o s).till = s.till := by
  simp only [offerFrame]
  (repeat' split) <;> first | rfl | (simp; done)

@[simp] theorem till_onCounter (c f) : (onCounter c f s).till = s.till := by
  simp only [onCounter]
  (repeat' split) <;> first | rfl | (simp; done)

@[simp] theorem till_monitorDriven (c) : (monitorDriven c s).till = s.till := by
  simp only [monitorDriven]
  (repeat' split) <;> first | rfl | (simp; done)

@[simp] theorem till_monitorReleased (c) : (monitorReleased c s).till = s.till := by
  simp only [monitorReleased]
  (repeat' split) <;> first | rfl | (simp; done)

@[simp] theorem till_setPump (d) : (setPump d s).till = s.till := by
  simp only [setPump]
  (repeat' split) <;> first | rfl | (simp; done)

@[simp] theorem till_setGrinder (b) : (setGrinder b s).till = s.till := by
  simp only [setGrinder]
  (repeat' split) <;> first | rfl | (simp; done)

@[simp] theorem till_setBrewer (v) : (setBrewer v s).till = s.till := by
  simp only [setBrewer]
  (repeat' split) <;> first | rfl | (simp; done)

@[simp] theorem till_heatLoad : (heatLoad s).till = s.till := by
  simp only [heatLoad]
  (repeat' split) <;> first | rfl | (simp; done)

@[simp] theorem till_reportRegulator : (reportRegulator s).till = s.till := by
  simp only [reportRegulator]
  (repeat' split) <;> first | rfl | (simp; done)

@[simp] theorem till_phaseSet (p) : (phaseSet p s).till = s.till := by
  simp only [phaseSet]
  (repeat' split) <;> first | rfl | (simp; done)

@[simp] theorem till_stopLevels : (stopLevels s).till = s.till := by
  simp only [stopLevels]
  (repeat' split) <;> first | rfl | (simp; done)

@[simp] theorem till_unitStop : (unitStop s).till = s.till := by
  simp only [unitStop]
  (repeat' split) <;> first | rfl | (simp; done)

@[simp] theorem till_moveOver : (moveOver s).till = s.till := by
  simp only [moveOver]
  (repeat' split) <;> first | rfl | (simp; done)

@[simp] theorem till_strokesOver : (strokesOver s).till = s.till := rfl

@[simp] theorem till_setDue (k) : (setDue k s).till = s.till := by
  simp only [setDue]
  (repeat' split) <;> first | rfl | (simp; done)

@[simp] theorem till_cupMade : (cupMade s).till = s.till := by
  simp only [cupMade]
  (repeat' split) <;> first | rfl | (simp; done)

@[simp] theorem till_setRun (f) : (setRun f s).till = s.till := by
  simp only [setRun]
  (repeat' split) <;> first | rfl | (simp; done)

@[simp] theorem till_setCycle (f) : (setCycle f s).till = s.till := by
  simp only [setCycle]
  (repeat' split) <;> first | rfl | (simp; done)

@[simp] theorem till_releaseGrind : (releaseGrind s).till = s.till := by
  simp only [releaseGrind]
  (repeat' split) <;> first | rfl | (simp; done)

@[simp] theorem till_grcIdle : (grcIdle s).till = s.till := by
  simp only [grcIdle]
  (repeat' split) <;> first | rfl | (simp; done)

@[simp] theorem till_recordAbort (r) : (recordAbort r s).till = s.till := by
  simp only [recordAbort]
  (repeat' split) <;> first | rfl | (simp; done)

@[simp] theorem till_countPuck : (countPuck s).till = s.till := by
  simp only [countPuck]
  (repeat' split) <;> first | rfl | (simp; done)

@[simp] theorem till_endRun (c k) : (endRun c k s).1.till = s.till := by
  simp only [endRun]
  (repeat' split) <;> first | rfl | (simp; done)

@[simp] theorem till_disarm (c) : (disarm c s).1.till = s.till := by
  simp only [disarm]
  (repeat' split) <;> first | rfl | (simp; done)

/-! ### Reports that leave the till alone -/

@[simp] theorem till_armCommit (c o n) : (armCommit c o n s).till = s.till := by
  simp only [armCommit]
  (repeat' split) <;> first | rfl | (simp; done) | (simp; rfl)

@[simp] theorem till_offerPlainClaim : (offerPlainClaim s).till = s.till := by
  simp only [offerPlainClaim]
  (repeat' split) <;> first | rfl | (simp; done) | (simp; rfl)

@[simp] theorem till_offerClaim : (offerClaim s).till = s.till := by
  simp only [offerClaim]
  (repeat' split) <;> first | rfl | (simp; done) | (simp; rfl)

@[simp] theorem till_stuStepDownEnd : (stuStepDownEnd s).1.till = s.till := by
  simp only [stuStepDownEnd]
  (repeat' split) <;> first | rfl | (simp; done) | (simp; rfl)

@[simp] theorem till_suspended : (suspended s).till = s.till := by
  simp only [suspended]
  (repeat' split) <;> first | rfl | (simp; done) | (simp; rfl)

@[simp] theorem till_enterStretch : (enterStretch s).till = s.till := by
  simp only [enterStretch]
  (repeat' split) <;> first | rfl | (simp; done) | (simp; rfl)

@[simp] theorem till_grantedStep : (grantedStep s).till = s.till := by
  simp only [grantedStep]
  (repeat' split) <;> first | rfl | (simp; done) | (simp; rfl)

@[simp] theorem till_grantStep (k) : (grantStep k s).till = s.till := by
  simp only [grantStep]
  (repeat' split) <;> first | rfl | (simp; done) | (simp; rfl)

@[simp] theorem till_endWaiting (o) : (endWaiting o s).1.till = s.till := by
  simp only [endWaiting]
  (repeat' split) <;> first | rfl | (simp; done) | (simp; rfl)

@[simp] theorem till_countOverload : (countOverload s).1.till = s.till := by
  simp only [countOverload]
  (repeat' split) <;> first | rfl | (simp; done) | (simp; rfl)

@[simp] theorem till_failRun (o b) : (failRun o b s).1.till = s.till := by
  simp only [failRun]
  (repeat' split) <;> first | rfl | (simp; done) | (simp; rfl)

@[simp] theorem till_grindClosed : (grindClosed s).till = s.till := by
  simp only [grindClosed]
  (repeat' split) <;> first | rfl | (simp; done) | (simp; rfl)

@[simp] theorem till_clearServiceWish : (clearServiceWish s).1.till = s.till := by
  simp only [clearServiceWish]
  (repeat' split) <;> first | rfl | (simp; done) | (simp; rfl)

@[simp] theorem till_cancelledGrind : (cancelledGrind s).1.till = s.till := by
  simp only [cancelledGrind]
  (repeat' split) <;> first | rfl | (simp; done) | (simp; rfl)

@[simp] theorem till_cancelGrind (n) : (cancelGrind n s).1.till = s.till := by
  simp only [cancelGrind]
  (repeat' split) <;> first | rfl | (simp; done) | (simp; rfl)

@[simp] theorem till_brcStandby : (brcStandby s).till = s.till := by
  simp only [brcStandby]
  (repeat' split) <;> first | rfl | (simp; done) | (simp; rfl)

@[simp] theorem till_clearStandby : (clearStandby s).1.till = s.till := by
  simp only [clearStandby]
  (repeat' split) <;> first | rfl | (simp; done) | (simp; rfl)

@[simp] theorem till_stuckLatch (n) : (stuckLatch n s).1.till = s.till := by
  simp only [stuckLatch]
  (repeat' split) <;> first | rfl | (simp; done) | (simp; rfl)

@[simp] theorem till_endCupRun (p) : (endCupRun p s).1.till = s.till := by
  simp only [endCupRun]
  (repeat' split) <;> first | rfl | (simp; done) | (simp; rfl)

@[simp] theorem till_runState (st d) : (runState st d s).till = s.till := by
  simp only [runState]
  (repeat' split) <;> first | rfl | (simp; done) | (simp; rfl)

@[simp] theorem till_brcAbort (r) : (brcAbort r s).1.till = s.till := by
  simp only [brcAbort]
  (repeat' split) <;> first | rfl | (simp; done) | (simp; rfl)

@[simp] theorem till_grindOver : (grindOver s).1.till = s.till := by
  simp only [grindOver]
  (repeat' split) <;> first | rfl | (simp; done) | (simp; rfl)

@[simp] theorem till_grindAccept (a b c) : (grindAccept a b c s).1.till = s.till := by
  simp only [grindAccept]
  (repeat' split) <;> first | rfl | (simp; done) | (simp; rfl)

@[simp] theorem till_grantCup (o) : (grantCup o s).1.till = s.till := by
  simp only [grantCup]
  (repeat' split) <;> first | rfl | (simp; done) | (simp; rfl)

@[simp] theorem till_clcSuspend : (clcSuspend s).1.till = s.till := by
  simp only [clcSuspend]
  (repeat' split) <;> first | rfl | (simp; done) | (simp; rfl)

@[simp] theorem till_clcAbort (r b) : (clcAbort r b s).1.till = s.till := by
  simp only [clcAbort]
  (repeat' split) <;> first | rfl | (simp; done) | (simp; rfl)

@[simp] theorem till_beginStep (k) : (beginStep k s).1.till = s.till := by
  simp only [beginStep]
  (repeat' split) <;> first | rfl | (simp; done) | (simp; rfl)

@[simp] theorem till_clcStepEnd : (clcStepEnd s).1.till = s.till := by
  simp only [clcStepEnd]
  (repeat' split) <;> first | rfl | (simp; done) | (simp; rfl)

@[simp] theorem till_clcComplete (k) : (clcComplete k s).1.till = s.till := by
  simp only [clcComplete]
  (repeat' split) <;> first | rfl | (simp; done) | (simp; rfl)

@[simp] theorem till_composeClaim (b) : (composeClaim b s).1.till = s.till := by
  simp only [composeClaim]
  (repeat' split) <;> first | rfl | (simp; done) | (simp; rfl)

@[simp] theorem till_answerOffer (o) : (answerOffer o s).1.till = s.till := by
  simp only [answerOffer]
  (repeat' split) <;> first | rfl | (simp; done) | (simp; rfl)

@[simp] theorem till_beginFrame (k f) : (beginFrame k f s).till = s.till := by
  simp only [beginFrame]
  (repeat' split) <;> first | rfl | (simp; done) | (simp; rfl)

@[simp] theorem till_withdrawSlot (k) : (withdrawSlot k s).till = s.till := by
  simp only [withdrawSlot]
  (repeat' split) <;> first | rfl | (simp; done) | (simp; rfl)

@[simp] theorem till_accessAt (k) : (accessAt k s).1.till = s.till := by
  simp only [accessAt]
  (repeat' split) <;> first | rfl | (simp; done) | (simp; rfl)

@[simp] theorem till_isolatedRise : (isolatedRise s).1.till = s.till := by
  simp only [isolatedRise]
  (repeat' split) <;> first | rfl | (simp; done) | (simp; rfl)

@[simp] theorem till_offerTake (p) : (offerTake p s).till = s.till := by
  simp only [offerTake]
  (repeat' split) <;> first | rfl | (simp; done) | (simp; rfl)

@[simp] theorem till_offerRefresh (p) : (offerRefresh p s).till = s.till := by
  simp only [offerRefresh]
  (repeat' split) <;> first | rfl | (simp; done) | (simp; rfl)

@[simp] theorem till_lauAccess : (lauAccess s).1.till = s.till := by
  simp only [lauAccess]
  (repeat' split) <;> first | rfl | (simp; done) | (simp; rfl)

@[simp] theorem till_claimReport : (claimReport s).1.till = s.till := by
  simp only [claimReport]
  (repeat' split) <;> first | rfl | (simp; done) | (simp; rfl)

@[simp] theorem till_stuLower : (stuLower s).1.till = s.till := by
  simp only [stuLower]
  (repeat' split) <;> first | rfl | (simp; done) | (simp; rfl)

@[simp] theorem till_stuRise (p) : (stuRise p s).1.till = s.till := by
  simp only [stuRise]
  (repeat' split) <;> first | rfl | (simp; done) | (simp; rfl)

@[simp] theorem till_stuRetry : (stuRetry s).till = s.till := by
  simp only [stuRetry]
  (repeat' split) <;> first | rfl | (simp; done) | (simp; rfl)

@[simp] theorem till_stuHeatWish (h) : (stuHeatWish h s).1.till = s.till := by
  simp only [stuHeatWish]
  (repeat' split) <;> first | rfl | (simp; done) | (simp; rfl)

@[simp] theorem till_stuGrindWish (b) : (stuGrindWish b s).1.till = s.till := by
  simp only [stuGrindWish]
  (repeat' split) <;> first | rfl | (simp; done) | (simp; rfl)

@[simp] theorem till_stuCleanWish (b) : (stuCleanWish b s).1.till = s.till := by
  simp only [stuCleanWish]
  (repeat' split) <;> first | rfl | (simp; done) | (simp; rfl)

@[simp] theorem till_stuNeed : (stuNeed s).till = s.till := by
  simp only [stuNeed]
  (repeat' split) <;> first | rfl | (simp; done) | (simp; rfl)

@[simp] theorem till_arm (c o n) : (arm c o n s).1.till = s.till := by
  simp only [arm]
  (repeat' split) <;> first | rfl | (simp; done) | (simp; rfl)

@[simp] theorem till_stopRun (c) : (stopRun c s).1.till = s.till := by
  simp only [stopRun]
  (repeat' split) <;> first | rfl | (simp; done) | (simp; rfl)

@[simp] theorem till_grcRunEnded (cap) : (grcRunEnded cap s).1.till = s.till := by
  simp only [grcRunEnded]
  (repeat' split) <;> first | rfl | (simp; done) | (simp; rfl)

@[simp] theorem till_brcRunEnded (cap) : (brcRunEnded cap s).1.till = s.till := by
  simp only [brcRunEnded]
  (repeat' split) <;> first | rfl | (simp; done) | (simp; rfl)

@[simp] theorem till_clcRunEnded (cap) : (clcRunEnded cap s).1.till = s.till := by
  simp only [clcRunEnded]
  (repeat' split) <;> first | rfl | (simp; done) | (simp; rfl)

@[simp] theorem till_rateUpdate (c cap) : (rateUpdate c cap s).till = s.till := by
  simp only [rateUpdate]
  (repeat' split) <;> first | rfl | (simp; done) | (simp; rfl)

@[simp] theorem till_stopEvent (r) : (stopEvent r s).1.till = s.till := by
  simp only [stopEvent]
  (repeat' split) <;> first | rfl | (simp; done) | (simp; rfl)

@[simp] theorem till_grcStop : (grcStop s).1.till = s.till := by
  simp only [grcStop]
  (repeat' split) <;> first | rfl | (simp; done) | (simp; rfl)

@[simp] theorem till_brcStop (r) : (brcStop r s).1.till = s.till := by
  simp only [brcStop]
  (repeat' split) <;> first | rfl | (simp; done) | (simp; rfl)

@[simp] theorem till_clcStop (r) : (clcStop r s).1.till = s.till := by
  simp only [clcStop]
  (repeat' split) <;> first | rfl | (simp; done) | (simp; rfl)

@[simp] theorem till_grcGranted : (grcGranted s).1.till = s.till := by
  simp only [grcGranted]
  (repeat' split) <;> first | rfl | (simp; done) | (simp; rfl)

@[simp] theorem till_grcWithdrawn : (grcWithdrawn s).1.till = s.till := by
  simp only [grcWithdrawn]
  (repeat' split) <;> first | rfl | (simp; done) | (simp; rfl)

@[simp] theorem till_grcStartGrinder : (grcStartGrinder s).1.till = s.till := by
  simp only [grcStartGrinder]
  (repeat' split) <;> first | rfl | (simp; done) | (rename_i h; simp [grinderOn_some h])

@[simp] theorem till_brcEnter (st) : (brcEnter st s).1.till = s.till := by
  simp only [brcEnter]
  (repeat' split) <;> first | rfl | (simp; done) | (simp; rfl)

@[simp] theorem till_brcMove (b) : (brcMove b s).1.till = s.till := by
  simp only [brcMove]
  (repeat' split) <;> first | rfl | (simp; done) | (simp; rfl)

@[simp] theorem till_brcArrived (b) : (brcArrived b s).1.till = s.till := by
  simp only [brcArrived]
  (repeat' split) <;> first | rfl | (simp; done) | (simp; rfl)

@[simp] theorem till_brcEject : (brcEject s).1.till = s.till := by
  simp only [brcEject]
  (repeat' split) <;> first | rfl | (simp; done) | (simp; rfl)

@[simp] theorem till_brcStopOver : (brcStopOver s).1.till = s.till := by
  simp only [brcStopOver]
  (repeat' split) <;> first | rfl | (simp; done) | (simp; rfl)

@[simp] theorem till_brcProceed : (brcProceed s).1.till = s.till := by
  simp only [brcProceed]
  (repeat' split) <;> first | rfl | (simp; done) | (simp; rfl)

@[simp] theorem till_brcUnitIdle : (brcUnitIdle s).1.till = s.till := by
  simp only [brcUnitIdle]
  (repeat' split) <;> first | rfl | (simp; done) | (simp; rfl)

@[simp] theorem till_brcOffer : (brcOffer s).1.till = s.till := by
  simp only [brcOffer]
  (repeat' split) <;> first | rfl | (simp; done) | (simp; rfl)

@[simp] theorem till_brcHeat : (brcHeat s).1.till = s.till := by
  simp only [brcHeat]
  (repeat' split) <;> first | rfl | (simp; done) | (simp; rfl)

@[simp] theorem till_brcRegulator : (brcRegulator s).1.till = s.till := by
  simp only [brcRegulator]
  (repeat' split) <;> first | rfl | (simp; done) | (simp; rfl)

@[simp] theorem till_brcReadyCheck : (brcReadyCheck s).1.till = s.till := by
  simp only [brcReadyCheck]
  (repeat' split) <;> first | rfl | (simp; done) | (simp; rfl)

@[simp] theorem till_brcNoBase : (brcNoBase s).1.till = s.till := by
  simp only [brcNoBase]
  (repeat' split) <;> first | rfl | (simp; done) | (simp; rfl)

@[simp] theorem till_brcLineLost : (brcLineLost s).1.till = s.till := by
  simp only [brcLineLost]
  (repeat' split) <;> first | rfl | (simp; done) | (simp; rfl)

@[simp] theorem till_brcGrindReport (r) : (brcGrindReport r s).1.till = s.till := by
  simp only [brcGrindReport]
  (repeat' split) <;> first | rfl | (simp; done) | (simp; rfl)

@[simp] theorem till_brcGrindRefused : (brcGrindRefused s).1.till = s.till := by
  simp only [brcGrindRefused]
  (repeat' split) <;> first | rfl | (simp; done) | (simp; rfl)

@[simp] theorem till_brcServeStep : (brcServeStep s).1.till = s.till := by
  simp only [brcServeStep]
  (repeat' split) <;> first | rfl | (simp; done) | (simp; rfl)

@[simp] theorem till_brcStepEnd : (brcStepEnd s).1.till = s.till := by
  simp only [brcStepEnd]
  (repeat' split) <;> first | rfl | (simp; done) | (simp; rfl)

@[simp] theorem till_oruOffer : (oruOffer s).1.till = s.till := by
  simp only [oruOffer]
  (repeat' split) <;> first | rfl | (simp; done) | (simp; rfl)

@[simp] theorem till_oruCupPending : (oruCupPending s).1.till = s.till := by
  simp only [oruCupPending]
  (repeat' split) <;> first | rfl | (simp; done) | (simp; rfl)

@[simp] theorem till_clcOffer : (clcOffer s).1.till = s.till := by
  simp only [clcOffer]
  (repeat' split) <;> first | rfl | (simp; done) | (simp; rfl)

@[simp] theorem till_clcGranted : (clcGranted s).1.till = s.till := by
  simp only [clcGranted]
  (repeat' split) <;> first | rfl | (simp; done) | (simp; rfl)

@[simp] theorem till_clcLineLost : (clcLineLost s).1.till = s.till := by
  simp only [clcLineLost]
  (repeat' split) <;> first | rfl | (simp; done) | (simp; rfl)

@[simp] theorem till_clcStepDown : (clcStepDown s).1.till = s.till := by
  simp only [clcStepDown]
  (repeat' split) <;> first | rfl | (simp; done) | (simp; rfl)

@[simp] theorem till_brcGrindCancelAnswer (a) : (brcGrindCancelAnswer a s).1.till = s.till := rfl

@[simp] theorem till_clcMoveStopped : (clcMoveStopped s).1.till = s.till := rfl

@[simp] theorem till_clcReady : (clcReady s).1.till = s.till := by
  simp only [clcReady]
  (repeat' split) <;> first | rfl | (simp; done) | (simp; rfl)

@[simp] theorem till_clcPositioned : (clcPositioned s).1.till = s.till := by
  simp only [clcPositioned]
  (repeat' split) <;> first | rfl | (simp; done) | (simp; rfl)

@[simp] theorem till_clcStrokesDone : (clcStrokesDone s).1.till = s.till := by
  simp only [clcStrokesDone]
  (repeat' split) <;> first | rfl | (simp; done) | (simp; rfl)

@[simp] theorem till_clcCupPending : (clcCupPending s).1.till = s.till := by
  simp only [clcCupPending]
  (repeat' split) <;> first | rfl | (simp; done) | (simp; rfl)

@[simp] theorem till_clcRequest : (clcRequest s).1.till = s.till := by
  simp only [clcRequest]
  (repeat' split) <;> first | rfl | (simp; done) | (simp; rfl)

@[simp] theorem till_clcStepTail : (clcStepTail s).1.till = s.till := by
  simp only [clcStepTail]
  (repeat' split) <;> first | rfl | (simp; done) | (simp; rfl)

@[simp] theorem till_clcSlotWait : (clcSlotWait s).1.till = s.till := by
  simp only [clcSlotWait]
  (repeat' split) <;> first | rfl | (simp; done) | (simp; rfl)

@[simp] theorem till_pyuHoldTest (n b q) : (pyuHoldTest n b q s).till = s.till := by
  simp only [pyuHoldTest]
  (repeat' split) <;> first | rfl | (simp; done) | (simp; rfl)

end Sys2Proof.Machine
end

