-- ==== Sys2Proof/Laws/Ledger.lean ====
section
/-! SUPPORT. The money law is kept by every report between blocks, and the log only grows at its tail within an action. -/

namespace Sys2Proof.Machine

variable {s t : State}

/-! ### What the law reads -/

theorem Ledger.of_eq (hlog : t.plg.log.length = s.plg.log.length) (hres : t.plg.reserve = s.plg.reserve)
    (hq : t.oru.queue = s.oru.queue) (hp : t.pyu.payment.isSome = s.pyu.payment.isSome) (h : Ledger s) : Ledger t := by
  obtain ⟨h1, h2, h3, h4, h5⟩ := h
  constructor
  · omega
  · rw [hres, hp, State.debited, hq]; exact h2
  · rw [hq]; exact h3
  · rw [hq]; exact h4
  · rw [hq]; exact h5

theorem Ledger.of_till (e : t.till = s.till) (h : Ledger s) : Ledger t := by
  simp only [State.till, Prod.mk.injEq] at e
  exact Ledger.of_eq (by rw [e.1]) (by rw [e.1]) e.2.1 (by rw [e.2.2]) h

/-- A change of the order queue that keeps numbers, debits and what waits for payment keeps the law. -/
theorem Ledger.of_orders (f : Order → Order) (hn : ∀ o, (f o).number = o.number) (hd : ∀ o, (f o).debitSeq = o.debitSeq)
    (hw : ∀ o, (f o).state = .waitPay → o.state = .waitPay)
    (hlog : t.plg.log.length = s.plg.log.length) (hres : t.plg.reserve = s.plg.reserve)
    (hq : t.oru.queue = s.oru.queue.map f) (hp : t.pyu.payment.isSome = s.pyu.payment.isSome) (h : Ledger s) : Ledger t := by
  obtain ⟨h1, h2, h3, h4, h5⟩ := h
  constructor
  · omega
  · rw [hres, hp, h2, State.debited, State.debited, hq, List.filter_map, List.length_map]
    have : (fun o : Order => o.debitSeq.isSome) ∘ f = fun o => o.debitSeq.isSome := by funext o; simp [hd]
    rw [this]
  · rw [hq]; simpa using h3
  · rw [hq, List.map_map]
    have : Order.number ∘ f = Order.number := by funext o; simp [hn]
    rw [this]; exact h4
  · rw [hq]
    intro o ho hs
    obtain ⟨x, hx, rfl⟩ := List.mem_map.1 ho
    rw [hd]; exact h5 x hx (hw x hs)

theorem ledger_setOrder (n : Nat) (f : Order → Order) (hn : ∀ o, (f o).number = o.number)
    (hd : ∀ o, (f o).debitSeq = o.debitSeq) (hw : ∀ o, (f o).state = .waitPay → o.state = .waitPay) (h : Ledger s) :
    Ledger (setOrder n f s) := by
  refine Ledger.of_orders (s := s) (fun o => if o.number = n then f o else o) ?_ ?_ ?_ rfl rfl rfl rfl h
  · intro o; split <;> simp [hn]
  · intro o; split <;> simp [hd]
  · intro o; split
    · exact hw o
    · exact id

/-! ### Appends -/

@[simp] theorem placeEntry_log_length (k b a o r m c u) : (placeEntry k b a o r m c u s).plg.log.length = s.plg.log.length + 1 := by
  simp [placeEntry]
@[simp] theorem placeEntry_reserve (k b a o r m c u) : (placeEntry k b a o r m c u s).plg.reserve = s.plg.reserve := rfl
@[simp] theorem placeEntry_oru (k b a o r m c u) : (placeEntry k b a o r m c u s).oru = s.oru := rfl
@[simp] theorem placeEntry_pyu (k b a o r m c u) : (placeEntry k b a o r m c u s).pyu = s.pyu := rfl

@[simp] theorem postNotice_plg (k o c d1 d2) : (postNotice k o c d1 d2 s).plg = s.plg := by
  unfold postNotice; repeat' split
  all_goals rfl
@[simp] theorem postNotice_oru (k o c d1 d2) : (postNotice k o c d1 d2 s).oru = s.oru := by
  unfold postNotice; repeat' split
  all_goals rfl
@[simp] theorem postNotice_pyu (k o c d1 d2) : (postNotice k o c d1 d2 s).pyu = s.pyu := by
  unfold postNotice; repeat' split
  all_goals rfl

@[simp] theorem offerFrame_plg (o) : (offerFrame o s).plg = s.plg := by
  unfold offerFrame; repeat' split
  all_goals first | rfl | simp
@[simp] theorem offerFrame_oru (o) : (offerFrame o s).oru = s.oru := by
  unfold offerFrame; repeat' split
  all_goals first | rfl | simp
@[simp] theorem offerFrame_pyu (o) : (offerFrame o s).pyu = s.pyu := by
  unfold offerFrame; repeat' split
  all_goals first | rfl | simp

@[simp] theorem watermarkTest_log : (watermarkTest s).plg.log = s.plg.log := by unfold watermarkTest; split <;> simp
@[simp] theorem watermarkTest_reserve : (watermarkTest s).plg.reserve = s.plg.reserve := by
  unfold watermarkTest; split <;> simp
@[simp] theorem watermarkTest_nextSeq : (watermarkTest s).plg.nextSeq = s.plg.nextSeq := by
  unfold watermarkTest; split <;> simp
@[simp] theorem watermarkTest_oru : (watermarkTest s).oru = s.oru := by unfold watermarkTest; split <;> simp
@[simp] theorem watermarkTest_pyu : (watermarkTest s).pyu = s.pyu := by unfold watermarkTest; split <;> simp

/-- An append puts exactly one entry at the tail of the log (R164). -/
@[simp] theorem appendEntry_log (k b a o r m c u) : (appendEntry k b a o r m c u s).plg.log =
    s.plg.log ++ [{ seq := s.plg.nextSeq, kind := k, badge := b, amount := a, order := o, recipe := r, grindMode := m,
                    credit := c, time := s.timeBase / 1000, epoch := s.plg.epoch, unlisted := u }] := by
  simp [appendEntry, placeEntry]
@[simp] theorem appendEntry_reserve (k b a o r m c u) : (appendEntry k b a o r m c u s).plg.reserve = s.plg.reserve := by
  simp [appendEntry]
@[simp] theorem appendEntry_nextSeq (k b a o r m c u) :
    (appendEntry k b a o r m c u s).plg.nextSeq = (s.plg.nextSeq + 1) % 65536 := by
  simp [appendEntry, placeEntry]
@[simp] theorem appendEntry_oru (k b a o r m c u) : (appendEntry k b a o r m c u s).oru = s.oru := by simp [appendEntry]
@[simp] theorem appendEntry_pyu (k b a o r m c u) : (appendEntry k b a o r m c u s).pyu = s.pyu := by simp [appendEntry]

@[simp] theorem listDue_plg (b a) : (listDue b a s).plg = s.plg := rfl
@[simp] theorem listDue_oru (b a) : (listDue b a s).oru = s.oru := rfl
@[simp] theorem listDue_payment (b a) : (listDue b a s).pyu.payment = s.pyu.payment := rfl

@[simp] theorem appendRefundDue_log_length (b a o) : (appendRefundDue b a o s).plg.log.length = s.plg.log.length + 1 := by
  simp [appendRefundDue]
@[simp] theorem appendRefundDue_reserve (b a o) : (appendRefundDue b a o s).plg.reserve = s.plg.reserve := by
  simp [appendRefundDue]
@[simp] theorem appendRefundDue_oru (b a o) : (appendRefundDue b a o s).oru = s.oru := by simp [appendRefundDue]
@[simp] theorem appendRefundDue_payment (b a o) : (appendRefundDue b a o s).pyu.payment = s.pyu.payment := by
  simp [appendRefundDue]

/-! ### The close of an order (R134, R160) -/

/-- What a close does to the log: one entry where the order was debited. -/
theorem pyuClose_log (o : Order) (d : Bool) :
    (pyuClose o d s).plg.log.length = s.plg.log.length + flagCode o.debitSeq.isSome := by
  unfold pyuClose
  cases h : o.debitSeq with
  | none => simp [flagCode]
  | some q => cases d <;> simp [reserveDown, flagCode]

theorem pyuClose_reserve (o : Order) (d : Bool) :
    (pyuClose o d s).plg.reserve = s.plg.reserve - flagCode o.debitSeq.isSome := by
  unfold pyuClose
  cases h : o.debitSeq with
  | none => simp [flagCode]
  | some q => cases d <;> simp [reserveDown, flagCode]

@[simp] theorem pyuClose_oru (o : Order) (d : Bool) : (pyuClose o d s).oru = s.oru := by
  unfold pyuClose
  cases h : o.debitSeq with
  | none => rfl
  | some q => cases d <;> simp [reserveDown]

@[simp] theorem pyuClose_payment (o : Order) (d : Bool) : (pyuClose o d s).pyu.payment = s.pyu.payment := by
  unfold pyuClose
  cases h : o.debitSeq with
  | none => rfl
  | some q => cases d <;> simp [reserveDown]

/-- The records with another number, where numbers are distinct: the debited ones lack exactly the one removed. -/
theorem debited_without (q : List Order) (hq : (q.map Order.number).Nodup) (o : Order) (ho : o ∈ q) :
    ((q.filter fun x => x.number != o.number).filter fun x => x.debitSeq.isSome).length + flagCode o.debitSeq.isSome
      = (q.filter fun x => x.debitSeq.isSome).length := by
  induction q with
  | nil => simp at ho
  | cons x rest ih =>
    simp only [List.map_cons, List.nodup_cons] at hq
    rcases List.mem_cons.1 ho with rfl | hmem
    · have hall : ∀ y ∈ rest, (y.number != o.number) = true := by
        intro y hy
        have : y.number ≠ o.number := fun e => hq.1 (List.mem_map.2 ⟨y, hy, e⟩)
        simpa using this
      simp only [List.filter_cons, bne_self_eq_false, Bool.false_eq_true, ↓reduceIte, List.filter_eq_self.2 hall]
      cases o.debitSeq.isSome <;> simp [flagCode]
    · have hx : (x.number != o.number) = true := by
        have : x.number ≠ o.number := fun e => hq.1 (List.mem_map.2 ⟨o, hmem, e.symm⟩)
        simpa using this
      have := ih hq.2 hmem
      simp only [List.filter_cons, hx, ↓reduceIte]
      cases x.debitSeq.isSome <;> simp only [Bool.false_eq_true, ↓reduceIte, List.length_cons] <;> omega

theorem ledger_closeOrder (o : Order) (r : OrderOutcome) (ho : o ∈ s.oru.queue) (h : Ledger s) : Ledger (closeOrder o r s).1 := by
  obtain ⟨h1, h2, h3, h4, h5⟩ := h
  obtain ⟨s1, hs1⟩ : ∃ s1, s1 = s.onOru fun u => { u with queue := u.queue.filter fun q => q.number != o.number } := ⟨_, rfl⟩
  have e : (closeOrder o r s).1.till = (pyuClose o (r == .delivered) s1).till := by
    simp only [closeOrder, ← hs1]
    split <;> simp
  refine Ledger.of_till e ?_
  have hd := debited_without s.oru.queue h4 o ho
  have hq : (pyuClose o (r == .delivered) s1).oru.queue = s.oru.queue.filter fun q => q.number != o.number := by
    rw [pyuClose_oru, hs1]; rfl
  have hle : flagCode o.debitSeq.isSome ≤ 1 := by cases o.debitSeq.isSome <;> simp [flagCode]
  have hl := pyuClose_log (s := s1) o (r == .delivered)
  have hr := pyuClose_reserve (s := s1) o (r == .delivered)
  have hp : (pyuClose o (r == .delivered) s1).pyu.payment = s.pyu.payment := by rw [pyuClose_payment, hs1]; rfl
  have e1 : s1.plg = s.plg := by rw [hs1]; rfl
  rw [e1] at hl hr
  constructor
  · simp only [State.debited] at h2; omega
  · rw [hr, hp, State.debited, hq]; simp only [State.debited] at h2; omega
  · rw [hq]; exact Nat.le_trans (List.length_filter_le _ _) h3
  · rw [hq]; exact h4.sublist (List.filter_sublist.map _)
  · rw [hq]; intro x hx; exact h5 x (List.mem_filter.1 hx).1

/-! ### Money reports -/

theorem ledger_oruStart (h : Ledger s) : Ledger (oruStart s).1 := by
  simp only [oruStart]
  repeat' split
  · exact h
  · exact h
  · refine Ledger.of_till (till_grantCup _) ?_
    exact ledger_setOrder _ _ (fun _ => rfl) (fun _ => rfl) (by simp) h
  · exact Ledger.of_till (by simp) h
  · exact h

theorem ledger_oruGrindReady (h : Ledger s) : Ledger (oruGrindReady s).1 := by
  simp only [oruGrindReady]
  repeat' split
  · exact h
  · exact Ledger.of_till (till_grindAccept _ _ _) h
  · exact ledger_setOrder _ _ (fun _ => rfl) (fun _ => rfl) (fun _ => id) h

theorem ledger_oruGrindReport (r) (h : Ledger s) : Ledger (oruGrindReport r s).1 := by
  simp only [oruGrindReport]
  refine ledger_setOrder _ _ ?_ ?_ ?_ h
  all_goals intro o; split <;> simp

theorem ledger_oruRunEnd (r) (h : Ledger s) : Ledger (oruRunEnd r s).1 := by
  simp only [oruRunEnd]
  repeat' split
  · rename_i x hx _
    exact ledger_closeOrder _ _ (List.mem_of_find?_eq_some hx) h
  · exact h
  · exact h

theorem ledger_oruFaultSet (h : Ledger s) : Ledger (oruFaultSet s).1 := by
  simp only [oruFaultSet]
  split
  · rename_i x hx
    exact ledger_closeOrder x (.failed .outOfService) (List.mem_of_find?_eq_some hx) h
  · exact h

theorem ledger_oruPaymentOver (n) (h : Ledger s) : Ledger (oruPaymentOver n s).1 := by
  have h1 : Ledger (setOrder n (fun o => { o with paying := false }) s) :=
    ledger_setOrder _ _ (fun _ => rfl) (fun _ => rfl) (fun _ => id) h
  simp only [oruPaymentOver]
  repeat' split
  · rename_i x hx _
    exact ledger_closeOrder _ _ (List.mem_of_find?_eq_some hx) h1
  · exact h1
  · exact h1

theorem ledger_setPayment (f) (h : Ledger s) : Ledger (setPayment f s) :=
  Ledger.of_eq (s := s) rfl rfl rfl (by simp [setPayment]) h

@[simp] theorem sendSignal_plg (b) : (sendSignal b s).plg = s.plg := by unfold sendSignal; split <;> rfl
@[simp] theorem sendSignal_oru (b) : (sendSignal b s).oru = s.oru := by unfold sendSignal; split <;> rfl
@[simp] theorem sendSignal_payment (b) : (sendSignal b s).pyu.payment = s.pyu.payment := by unfold sendSignal; split <;> rfl

theorem ledger_endUnpaid (c) (h : Ledger s) : Ledger (endUnpaid c s).1 := by
  cases hp : s.pyu.payment with
  | none => simp only [endUnpaid, hp]; exact h
  | some p =>
    obtain ⟨h1, h2, h3, h4, h5⟩ := h
    rw [hp] at h2
    have key : ∀ u : State, u.plg.log = s.plg.log → u.plg.reserve = s.plg.reserve → u.oru = s.oru →
        Ledger ((reserveDown 3 (freeRefunds u)).onPyu fun v => { v with payment := none }) := by
      intro u hl hr ho
      have h2' : s.plg.reserve = 3 + s.debited := by simpa [flagCode] using h2
      constructor
      · simp [reserveDown, freeRefunds, hl, hr]; omega
      · simp [reserveDown, freeRefunds, hr, State.debited, ho, flagCode] at *; omega
      · simp [reserveDown, freeRefunds, ho]; exact h3
      · simp [reserveDown, freeRefunds, ho]; exact h4
      · simp [reserveDown, freeRefunds, ho]; exact h5
    simp only [endUnpaid, hp]
    split
    · refine ledger_oruPaymentOver _ (key _ ?_ ?_ ?_) <;> (repeat' split) <;> simp
    · refine key _ ?_ ?_ ?_ <;> (repeat' split) <;> simp

theorem ledger_offer (o) (h : Ledger s) : Ledger (offerFrame o s) := Ledger.of_till (by simp) h

theorem ledger_enterWriting (p) (h : Ledger s) : Ledger (enterWriting p s) :=
  ledger_setPayment _ (Ledger.of_eq (s := s) rfl rfl rfl rfl h)

theorem ledger_pyuTryWrite (h : Ledger s) : Ledger (pyuTryWrite s).1 := by
  simp only [pyuTryWrite]
  repeat' split
  all_goals first | exact h | exact ledger_endUnpaid _ h | exact ledger_enterWriting _ h

theorem ledger_offerRefresh (p) (h : Ledger s) : Ledger (offerRefresh p s) := by
  simp only [offerRefresh, offerTake]
  split
  · exact h
  · exact ledger_offer _ h

theorem ledger_pyuGuardEnd (h : Ledger s) : Ledger (pyuGuardEnd s).1 := by
  simp only [pyuGuardEnd]
  repeat' split
  all_goals first | exact h | exact ledger_setPayment _ h | exact ledger_offerRefresh _ (ledger_setPayment _ h)

theorem ledger_pyuDispute (q) (h : Ledger s) : Ledger (pyuDispute q s).1 := by
  simp only [pyuDispute]; split
  · exact ledger_endUnpaid _ h
  · exact h

theorem ledger_pyuJoin (h : Ledger s) : Ledger (pyuJoin s) := by
  simp only [pyuJoin]; repeat' split
  all_goals first | exact h | exact ledger_setPayment _ h | exact ledger_offerRefresh _ h

theorem ledger_pyuStaleCleared (h : Ledger s) : Ledger (pyuStaleCleared s) := by
  simp only [pyuStaleCleared, offerTake]; repeat' split
  all_goals first | exact h | exact ledger_offer _ (ledger_setPayment _ h)

theorem ledger_pyuTakeGivenUp (g) (h : Ledger s) : Ledger (pyuTakeGivenUp g s).1 := by
  simp only [pyuTakeGivenUp]; split
  · exact ledger_endUnpaid _ h
  · exact h

theorem ledger_pyuHoldCleared (b) (h : Ledger s) : Ledger (pyuHoldCleared b s).1 := by
  simp only [pyuHoldCleared]; split
  · exact ledger_pyuTryWrite h
  · exact h

/-- Every report keeps the money law. -/
theorem ledger_perform (a : Act) (h : Ledger s) : Ledger (perform a s).1 := by
  cases a
  case oruStart => exact ledger_oruStart h
  case oruGrindReady => exact ledger_oruGrindReady h
  case oruGrindReport r => exact ledger_oruGrindReport r h
  case oruRunEnd r => exact ledger_oruRunEnd r h
  case oruFaultSet => exact ledger_oruFaultSet h
  case pyuGuardEnd => exact ledger_pyuGuardEnd h
  case pyuDispute q => exact ledger_pyuDispute q h
  case pyuJoin => exact ledger_pyuJoin h
  case pyuStaleCleared => exact ledger_pyuStaleCleared h
  case pyuTakePosted g q => exact ledger_setPayment _ h
  case pyuTakeGivenUp g => exact ledger_pyuTakeGivenUp g h
  case pyuHoldCleared b => exact ledger_pyuHoldCleared b h
  case pyuTryWrite => exact ledger_pyuTryWrite h
  case pyuEndUnpaid c => exact ledger_endUnpaid c h
  case runEnded o cap => cases o <;> exact Ledger.of_till (by simp [perform]) h
  all_goals exact Ledger.of_till (by simp [perform]) h

/-- Every action keeps the money law that its own effect left. -/
theorem ledger_react (e : Eff) (h : Ledger e.1) : Ledger (react e) := react_keeps Ledger (fun a _ hs => ledger_perform a hs) e h

end Sys2Proof.Machine
end

