-- ==== Sys2Proof/Laws/LedgerCommands.lean ====
section
/-! SUPPORT. The money law is kept by the effect of every command. -/

namespace Sys2Proof.Machine

variable {s : State}

/-! ### Order numbers (R123) -/

theorem length_le_of_nodup_subset {l m : List Nat} (hl : l.Nodup) (h : ∀ x ∈ l, x ∈ m) : l.length ≤ m.length := by
  induction l generalizing m with
  | nil => simp
  | cons a rest ih =>
    have ha : a ∈ m := h a (by simp)
    have hr : ∀ x ∈ rest, x ∈ m.erase a := by
      intro x hx
      have hne : x ≠ a := by
        intro e; subst e; exact (List.nodup_cons.1 hl).1 hx
      exact (List.mem_erase_of_ne hne).2 (h x (by simp [hx]))
    have := ih (List.nodup_cons.1 hl).2 hr
    rw [List.length_erase_of_mem ha] at this
    have := List.length_pos_of_mem ha
    simp only [List.length_cons]
    omega

/-- The number given at an admission is held by no record of a queue of at most four. -/
theorem freeNumber_free (l : List Nat) (hl : l.length ≤ 5) (n : Nat) : freeNumber l.contains 6 n ∉ l := by
  intro hmem
  let a := numberAfter
  have hall : ∀ x ∈ [n, a n, a (a n), a (a (a n)), a (a (a (a n))), a (a (a (a (a n))))], x ∈ l := by
    simp only [freeNumber] at hmem
    repeat' split at hmem
    all_goals simp_all [a]
  have hnd : [n, a n, a (a n), a (a (a n)), a (a (a (a n))), a (a (a (a (a n))))].Nodup := by
    simp only [a, numberAfter, List.nodup_cons, List.mem_cons, List.not_mem_nil, or_false, not_or, List.nodup_nil,
      not_false_eq_true, and_true]
    (repeat' split) <;> omega
  have := length_le_of_nodup_subset hnd hall
  simp at this
  omega

/-- The numbers held (R123). -/
def State.heldNumbers (s : State) : List Nat :=
  s.oru.queue.map Order.number ++ ((s.pyu.payment.bind Payment.order).map Prod.fst).toList

theorem numberHeld_eq : s.numberHeld = s.heldNumbers.contains := by
  funext n
  have h1 : s.oru.queue.any (fun o => o.number == n) = (s.oru.queue.map Order.number).contains n := by
    induction s.oru.queue with
    | nil => rfl
    | cons o rest ih => rw [List.any_cons, ih, List.map_cons, List.contains_cons, Bool.beq_comm (a := n)]
  have h2 : (s.pyu.payment.any fun p => p.order.any fun q => q.1 == n)
      = ((s.pyu.payment.bind Payment.order).map Prod.fst).toList.contains n := by
    cases s.pyu.payment with
    | none => rfl
    | some p =>
      simp only [Option.any_some, Option.bind_some]
      cases p.order with
      | none => rfl
      | some q => simp only [Option.any_some, Option.map_some, Option.toList_some, List.contains_cons, List.contains_nil,
          Bool.or_false, Bool.beq_comm]
  rw [State.numberHeld, State.heldNumbers, h1, h2, List.contains_append]

theorem orderNumber_new (h : s.oru.queue.length ≤ 4) : s.orderNumber ∉ s.oru.queue.map Order.number := by
  have hl : s.heldNumbers.length ≤ 5 := by
    simp only [State.heldNumbers, List.length_append, List.length_map]
    have : ∀ o : Option Nat, o.toList.length ≤ 1 := by intro o; cases o <;> simp
    have := this ((s.pyu.payment.bind Payment.order).map Prod.fst)
    omega
  have := freeNumber_free s.heldNumbers hl s.oru.nextNumber
  rw [State.orderNumber, numberHeld_eq]
  intro hm
  exact this (List.mem_append_left _ hm)

/-! ### Orders -/

theorem orderTest_room {recipe size strength : Nat} {free : Bool} (h : s.orderTest recipe size strength free = none) :
    s.oru.queue.length < 4 := by
  rcases Nat.lt_or_ge s.oru.queue.length 4 with hl | hl
  · exact hl
  · exfalso
    simp only [State.orderTest, hl, ↓reduceIte] at h
    repeat' split at h
    all_goals cases h

theorem ledger_admitOrder (o : Order) (ho : o.number ∉ s.oru.queue.map Order.number) (hd : o.debitSeq = none)
    (hl : s.oru.queue.length < 4) (h : Ledger s) : Ledger (admitOrder o s).1 := by
  obtain ⟨h1, h2, h3, h4, h5⟩ := h
  simp only [admitOrder]
  refine Ledger.of_till till_clearStandby ?_
  constructor
  · exact h1
  · simpa [State.debited, hd] using h2
  · simp; omega
  · simp only [State.onOru, List.map_append, List.map_cons, List.map_nil]
    rw [List.nodup_append]
    refine ⟨h4, by simp, ?_⟩
    intro a ha b hb e
    simp only [List.mem_singleton] at hb
    exact ho (by rw [← hb, ← e]; exact ha)
  · intro x hx hs
    simp only [State.onOru, List.mem_append, List.mem_singleton] at hx
    rcases hx with hx | rfl
    · exact h5 x hx hs
    · exact hd

theorem ledger_tapExpiry (n) (h : Ledger s) : Ledger (tapExpiry n s).1 := by
  have h1 : Ledger (setOrder n (fun o => { o with tapDeadline := none, windowExpired := o.paying }) s) :=
    ledger_setOrder _ _ (fun _ => rfl) (fun _ => rfl) (fun _ => id) h
  simp only [tapExpiry]
  repeat' split
  all_goals first
    | exact h1
    | (rename_i x hx _; exact ledger_closeOrder _ _ (List.mem_of_find?_eq_some hx) h1)

theorem ledger_cancelOrder (n) (h : Ledger s) : Ledger (cancelOrder n s).1.1 := by
  simp only [cancelOrder]
  repeat' split
  · exact h
  · refine Ledger.of_till ?_ h
    simp only [cancelRun]
    (repeat' split) <;> simp
  · rename_i x hx _
    exact ledger_closeOrder _ _ (List.mem_of_find?_eq_some hx) h

/-! ### Payments -/

theorem ledger_denyTap (o c) (h : Ledger s) : Ledger (denyTap o c s) := by
  refine Ledger.of_eq (s := s) ?_ ?_ ?_ ?_ h <;> simp only [denyTap] <;> split <;> simp

theorem ledger_startPayment (p : Payment) (hp : s.pyu.payment = none) (hr : s.logRoom = true) (h : Ledger s) :
    Ledger (startPayment p s) := by
  simp only [startPayment]
  split
  · exact ledger_denyTap _ _ h
  · obtain ⟨h1, h2, h3, h4, h5⟩ := h
    simp only [State.logRoom, decide_eq_true_eq] at hr
    have key : Ledger (reserveUp 3 (useRefund p.badge p.refundUsed.isSome
        ((offerFrame (.holdTake p.badge p.tag) s).onPyu fun u => { u with tag := p.tag, payment := some p, lastNewSeq := 0 }))) := by
      constructor
      · simp [reserveUp, useRefund]; omega
      · simp [reserveUp, useRefund, State.debited, flagCode]
        rw [hp] at h2; simp [State.debited, flagCode] at h2; omega
      · simpa [reserveUp, useRefund] using h3
      · simpa [reserveUp, useRefund] using h4
      · simpa [reserveUp, useRefund] using h5
    split
    · exact ledger_setOrder _ _ (by intro o; split <;> rfl) (by intro o; split <;> rfl) (by intro o; split <;> simp) key
    · exact key

theorem ledger_tap (b n q) (hp : s.pyu.payment = none) (h : Ledger s) : Ledger (tap b n q s) := by
  simp only [tap]
  repeat' split
  all_goals first
    | exact ledger_denyTap _ _ h
    | exact ledger_startPayment _ hp (by simp_all) h

theorem payable_mem {n : Nat} (h : s.payable n = true) : ∃ o ∈ s.oru.queue, o.number = n ∧ o.state = .waitPay := by
  simp only [State.payable, List.any_eq_true, Bool.and_eq_true, beq_iff_eq] at h
  exact h

/-- One record, found by its number, becomes debited. -/
theorem debited_one_more (q : List Order) (hq : (q.map Order.number).Nodup) (o : Order) (ho : o ∈ q) (hd : o.debitSeq = none)
    (f : Order → Order) (hf : ∀ o, (f o).debitSeq.isSome = true) :
    ((q.map fun x => if x.number = o.number then f x else x).filter fun x => x.debitSeq.isSome).length
      = (q.filter fun x => x.debitSeq.isSome).length + 1 := by
  induction q with
  | nil => simp at ho
  | cons x rest ih =>
    simp only [List.map_cons, List.nodup_cons] at hq
    rcases List.mem_cons.1 ho with rfl | hmem
    · have hall : rest.map (fun x => if x.number = o.number then f x else x) = rest := by
        rw [List.map_congr_left (g := id), List.map_id]
        intro y hy
        have : y.number ≠ o.number := fun e => hq.1 (List.mem_map.2 ⟨y, hy, e⟩)
        simp [this]
      simp [hall, hf, hd]
    · have hx : x.number ≠ o.number := fun e => hq.1 (List.mem_map.2 ⟨o, hmem, e.symm⟩)
      have := ih hq.2 hmem
      simp only [List.map_cons, hx, ↓reduceIte, List.filter_cons]
      cases x.debitSeq.isSome <;> simp only [Bool.false_eq_true, ↓reduceIte, List.length_cons] <;> omega

/-- What the appends of a completed write do to the till (R154). -/
theorem completeAppends_till (p : Payment) :
    (completeAppends p s).plg.log.length = s.plg.log.length + flagCode p.refundUsed.isSome + flagCode p.order.isSome
      ∧ (completeAppends p s).plg.reserve = s.plg.reserve ∧ (completeAppends p s).oru = s.oru
      ∧ (completeAppends p s).pyu.payment = s.pyu.payment := by
  simp only [completeAppends]
  cases p.refundUsed <;> cases p.order <;> simp [flagCode]

@[simp] theorem completeTail_plg (p o c) : (completeTail p o c s).plg = s.plg := by simp [completeTail]
@[simp] theorem completeTail_oru (p o c) : (completeTail p o c s).oru = s.oru := by simp [completeTail]
@[simp] theorem completeTail_payment (p o c) : (completeTail p o c s).pyu.payment = none := by simp [completeTail]

theorem ledger_completePayment (h : Ledger s) : Ledger (completePayment s).1 := by
  cases hp : s.pyu.payment with
  | none => simp only [completePayment, hp]; exact h
  | some p =>
    obtain ⟨h1, h2, h3, h4, h5⟩ := h
    rw [hp] at h2
    have h2' : s.plg.reserve = 3 + s.debited := by simpa [flagCode] using h2
    obtain ⟨a1, a2, a3, a4⟩ := completeAppends_till (s := s) p
    have hc : ∀ b : Bool, flagCode b ≤ 1 := by intro b; cases b <;> simp [flagCode]
    have c1 := hc p.refundUsed.isSome
    have c2 := hc p.order.isSome
    simp only [completePayment, hp]
    split
    · constructor
      · simp [reserveDown]; omega
      · simp [reserveDown, State.debited, a2, a3, flagCode] at *; omega
      · simpa [reserveDown, a3] using h3
      · simpa [reserveDown, a3] using h4
      · simpa [reserveDown, a3] using h5
    · rename_i q hq
      split
      · rename_i hpay
        obtain ⟨o, ho, hn, hs⟩ := payable_mem hpay
        try rw [a3] at ho
        have hd := h5 o ho hs
        have hone := fun f hf => debited_one_more s.oru.queue h4 o ho hd f hf
        rw [hn] at hone
        constructor
        · simp [reserveDown, reserveUp, oruPaid, setOrder]; omega
        · simp only [reserveUp, reserveDown, oruPaid, setOrder, State.onPlg, State.onOru, completeTail_plg, completeTail_oru,
            completeTail_payment, State.debited, a2, a3, flagCode, Option.isSome_none, Bool.false_eq_true, ↓reduceIte]
          simp only [State.debited] at h2'
          rw [hone _ (fun _ => rfl)]
          omega
        · simpa [reserveDown, reserveUp, oruPaid, setOrder, a3] using h3
        · simp only [reserveDown, reserveUp, oruPaid, setOrder, State.onPlg, State.onOru, completeTail_oru, a3, List.map_map]
          rw [List.map_congr_left (g := Order.number)]
          · exact h4
          · intro o _; simp only [Function.comp]; split <;> rfl
        · intro x hx hw
          simp only [reserveDown, reserveUp, oruPaid, setOrder, State.onPlg, State.onOru, completeTail_oru, a3,
            List.mem_map] at hx
          obtain ⟨y, hy, rfl⟩ := hx
          by_cases hyn : y.number = q.1
          · simp [hyn] at hw
          · simp only [hyn, ↓reduceIte] at hw ⊢; exact h5 y hy hw
      · constructor
        · simp [reserveDown]; omega
        · simp [reserveDown, State.debited, a2, a3, flagCode] at *; omega
        · simpa [reserveDown, a3] using h3
        · simpa [reserveDown, a3] using h4
        · simpa [reserveDown, a3] using h5

theorem ledger_enterVerify (h : Ledger s) : Ledger (enterVerify s) := by
  simp only [enterVerify]
  split
  · exact h
  · refine Ledger.of_till (till_postNotice _ _ _ _ _) (ledger_setPayment _ h)

theorem ledger_retapEnd (h : Ledger s) : Ledger (retapEnd s).1 := by
  cases hp : s.pyu.payment with
  | none => simp only [retapEnd, hp]; exact h
  | some p =>
    obtain ⟨h1, h2, h3, h4, h5⟩ := h
    rw [hp] at h2
    have h2' : s.plg.reserve = 3 + s.debited := by simpa [flagCode] using h2
    have key : ∀ u : State, u.plg.log.length = s.plg.log.length + 1 → u.plg.reserve = s.plg.reserve → u.oru = s.oru →
        Ledger ((reserveDown 3 (freeRefunds u)).onPyu fun v => { v with payment := none }) := by
      intro u hl hr ho
      constructor
      · simp [reserveDown, freeRefunds, hr]; omega
      · simp [reserveDown, freeRefunds, hr, State.debited, ho, flagCode] at *; omega
      · simpa [reserveDown, freeRefunds, ho] using h3
      · simpa [reserveDown, freeRefunds, ho] using h4
      · simpa [reserveDown, freeRefunds, ho] using h5
    simp only [retapEnd, hp, endUnpaid, appendEntry_pyu]
    split
    · refine ledger_oruPaymentOver _ (key _ ?_ ?_ ?_) <;> (repeat' split) <;> simp
    · refine key _ ?_ ?_ ?_ <;> (repeat' split) <;> simp

theorem ledger_retap (p b q) (h : Ledger s) : Ledger (retap p b q s).1 := by
  simp only [retap]
  repeat' split
  all_goals first
    | exact ledger_completePayment h
    | exact ledger_endUnpaid _ h
    | exact ledger_enterWriting _ h
    | exact ledger_endUnpaid _ (Ledger.of_till (till_postNotice _ _ _ _ _) h)

theorem ledger_readerPresent (b n q) (h : Ledger s) : Ledger (readerPresent b n q s).1 := by
  simp only [readerPresent]
  repeat' split
  all_goals first
    | (rename_i hp; exact ledger_tap _ _ _ hp h)
    | exact h
    | exact ledger_retap _ _ _ h
    | exact Ledger.of_eq (s := s) (by simp) (by simp) (by simp) (by simp) h

theorem ledger_readerRemoved (b) (h : Ledger s) : Ledger (readerRemoved b s).1 := by
  simp only [readerRemoved]; split
  · exact ledger_endUnpaid _ h
  · exact h

theorem ledger_readerWritten (b q) (h : Ledger s) : Ledger (readerWritten b q s).1 := by
  simp only [readerWritten]; split
  · exact ledger_completePayment (Ledger.of_eq (s := s) rfl rfl rfl rfl h)
  · exact h

theorem ledger_readerWriteFailed (b r) (h : Ledger s) : Ledger (readerWriteFailed b r s).1 := by
  simp only [readerWriteFailed]; repeat' split
  all_goals first | exact h | exact ledger_endUnpaid _ h | exact ledger_enterVerify h

theorem ledger_takeReaderRecord (r) (h : Ledger s) : Ledger (takeReaderRecord r s).1 := by
  cases r <;> simp only [takeReaderRecord]
  · exact ledger_readerPresent _ _ _ h
  · exact ledger_readerRemoved _ h
  · exact ledger_readerWritten _ _ h
  · exact ledger_readerWriteFailed _ _ h

theorem ledger_holdWaitEnd (h : Ledger s) : Ledger (holdWaitEnd s).1 := by
  simp only [holdWaitEnd]; split <;> exact ledger_endUnpaid _ h

theorem ledger_refreshDue (h : Ledger s) : Ledger (refreshDue s) := by
  simp only [refreshDue]; split
  · exact h
  · exact ledger_offerRefresh _ (ledger_setPayment _ h)

theorem ledger_readerSend (h : Ledger s) : Ledger (readerSend s) := by
  simp only [readerSend]
  repeat' split
  all_goals first | exact h | exact Ledger.of_eq (s := s) rfl rfl rfl (by simp [setPayment]) h

/-! ### Resets -/

theorem ledger_reset (p : Pins) (c : Cfl) (q : List Instr) : Ledger { State.reset with pins := p, cfl := c, pending := q } := by
  constructor <;> simp [State.reset, Plg.reset, Oru.reset, Pyu.reset, State.debited, flagCode]

theorem handoverOrders_log (l : List Order) : ∀ s : State,
    (handoverOrders l s).plg.log.length = s.plg.log.length + (l.filter fun o => o.debitSeq.isSome).length
      ∧ (handoverOrders l s).pyu.payment = s.pyu.payment ∧ (handoverOrders l s).plg.reserve = s.plg.reserve := by
  induction l with
  | nil => intro s; simp [handoverOrders]
  | cons o rest ih =>
    intro s
    simp only [handoverOrders]
    cases hd : o.debitSeq.isSome
    · simp only [Bool.false_eq_true, ↓reduceIte, List.filter_cons, hd]
      exact ih s
    · simp only [↓reduceIte, List.filter_cons, hd, List.length_cons]
      obtain ⟨a, b, c⟩ := ih (handoverRefundDue (o.badge.getD 0#32) o.price o.number s)
      rw [a, b, c]
      refine ⟨?_, ?_, ?_⟩
      · simp [handoverRefundDue]; omega
      · simp [handoverRefundDue]
      · simp [handoverRefundDue]

theorem handoverPayment_log : (handoverPayment s).plg.log.length ≤ s.plg.log.length + flagCode s.pyu.payment.isSome := by
  simp only [handoverPayment]
  repeat' split
  all_goals simp_all [flagCode]

theorem ledger_warmReset (h : Ledger s) : Ledger (warmReset s) := by
  obtain ⟨h1, h2, h3, h4, h5⟩ := h
  have e : ∀ u : State, (freeRefunds (handoverPuck u)).plg = u.plg := by
    intro u; simp only [freeRefunds, handoverPuck]; split <;> rfl
  have key : ∀ s1 : State, s1.till = s.till →
      (freeRefunds (handoverPuck (handoverPayment (handoverOrders s1.oru.queue s1)))).plg.log.length ≤ 64 := by
    intro s1 ht
    simp only [State.till, Prod.mk.injEq] at ht
    rw [e]
    have a := handoverPayment_log (s := handoverOrders s1.oru.queue s1)
    obtain ⟨b, c, _⟩ := handoverOrders_log s1.oru.queue s1
    rw [b, c, ht.1, ht.2.2] at a
    rw [ht.2.1] at a ⊢
    have hc : flagCode s.pyu.payment.isSome ≤ 3 * flagCode s.pyu.payment.isSome := by omega
    simp only [State.debited] at h2
    omega
  have hlog : (warmReset s).plg.log.length ≤ 64 := by
    simp only [warmReset, warmBlocks]
    split
    · exact key _ till_stopLevels
    · exact key _ rfl
  constructor
  · simpa [warmReset, warmBlocks] using hlog
  · simp [warmReset, warmBlocks, State.debited, Oru.reset, Pyu.reset, flagCode]
  · simp [warmReset, warmBlocks, Oru.reset]
  · simp [warmReset, warmBlocks, Oru.reset]
  · simp [warmReset, warmBlocks, Oru.reset]

end Sys2Proof.Machine
end

