-- ==== Sys2Proof/Laws/Safe.lean ====
section
/-! SUPPORT. What the timers, the requests, the resets and the load keep of the interlocks and of the inert states. -/

namespace Sys2Proof.Machine

variable {s t : State}

/-! ### Inert -/

theorem working_of_bare (e : t.bare = s.bare) : t.working = s.working := by
  simp only [State.bare, Prod.mk.injEq] at e
  simp only [State.working, e.1, e.2.1]

theorem inert_working (hw : s.working = true) (hm : t.plk.mode ≠ .halted) (hc : t.cfl = s.cfl)
    (hr : t.pins.resetAsserted = s.pins.resetAsserted) (h : Inert s) : Inert t := by
  have hl : s.cfl.loaded.isSome = true := by simp [State.working] at hw; exact hw.1
  constructor
  · intro e
    simp [State.working, hc, hm, hl] at e
  · intro e
    rw [hc, hr] at e
    have := (h.starting e).1
    simp [this] at hl

theorem inert_bare (e : t.bare = s.bare) (hw : s.working = true) (h : Inert s) : Inert t := by
  simp only [State.bare, Prod.mk.injEq] at e
  refine inert_working hw ?_ e.2.1 e.2.2 h
  rw [e.1]; simp [State.working] at hw; exact hw.2

/-- Inert reads only these. -/
theorem inert_of_eq (hd : t.dcu = s.dcu) (hq : t.oru.queue = s.oru.queue) (e : t.bare = s.bare) (h : Inert s) : Inert t := by
  have hw := working_of_bare e
  simp only [State.bare, Prod.mk.injEq] at e
  constructor
  · rw [hw, hd, hq, e.1]; exact h.parked
  · rw [e.2.1, e.2.2, e.1]; exact h.starting

/-- What every command keeps. -/
def Safe (s : State) : Prop := Interlocks s ∧ Inert s

theorem still_of (h : Inert s) (hw : s.working = false) : s.still := by
  obtain ⟨a, b, c, d, -⟩ := h.parked hw
  exact ⟨a, b, c, d⟩

theorem safe_whenWorking (f : State → Eff) (hl : Interlocks s → Interlocks (f s).1) (hb : (f s).1.bare = s.bare) (h : Safe s) : Safe (whenWorking f s) := by
  unfold whenWorking; split
  · rename_i hw
    exact ⟨locks_react _ (hl h.1), inert_bare (by rw [bare_react, hb]) hw h.2⟩
  · exact h

theorem safe_onDue (d) (f : State → Eff) (hd : d = true → s.working = true) (hl : Interlocks s → Interlocks (f s).1) (hb : (f s).1.bare = s.bare) (h : Safe s) : Safe (onDue d f s) := by
  unfold onDue; split
  · rename_i hw
    exact ⟨locks_react _ (hl h.1), inert_bare (by rw [bare_react, hb]) (hd hw) h.2⟩
  · exact h

/-- A line change. -/
theorem safe_line (f : Pins → Pins) (e : Eff) (hi : s.working = false → e = (s.onPins f, [])) (hp : ∀ p : Pins, (f p).resetAsserted = p.resetAsserted)
    (hl : Interlocks e.1) (hb : e.1.bare = s.bare) (h : Safe s) : Safe (react e) := by
  refine ⟨locks_react _ hl, ?_⟩
  cases hw : s.working
  · have hi := hi hw
    have : react e = s.onPins f := by
      rw [hi]
      have : (s.onPins f).working = false := by rw [working_of_bare (bare_onPins f hp), hw]
      simp [react, this, reportBound, runActs]
    rw [this]
    exact inert_of_eq (s := s) (t := s.onPins f) rfl rfl (bare_onPins f hp) h.2
  · exact inert_bare (by rw [bare_react, hb]) hw h.2

/-! ### Requests -/

theorem bare_placeReply (k n a) : (placeReply k n a).bare = a.state.bare := rfl

theorem inert_request (k n adm) (o : State → Answer)
    (hw : s.working = true → (o s).state.plk.mode ≠ .halted ∧ (o s).state.cfl = s.cfl ∧ (o s).state.pins.resetAsserted = s.pins.resetAsserted)
    (hn : s.working = false → modeRefusal adm s.plk.mode = none → Inert (o s).state) (h : Inert s) : Inert (request k n adm o s) := by
  simp only [request]
  split
  · exact h
  · split
    · exact inert_of_eq (s := s) rfl rfl rfl h
    · rename_i hm
      cases hk : s.working
      · exact inert_of_eq (s := (o s).state) rfl rfl rfl (hn hk hm)
      · obtain ⟨a, b, c⟩ := hw hk
        exact inert_working hk a b c h

theorem work_mode (hw : s.working = true) : s.plk.mode ≠ .halted := by simp [State.working] at hw; exact hw.2

theorem tri_of_bare (e : t.bare = s.bare) (hw : s.working = true) : t.plk.mode ≠ .halted ∧ t.cfl = s.cfl ∧ t.pins.resetAsserted = s.pins.resetAsserted := by
  simp only [State.bare, Prod.mk.injEq] at e
  exact ⟨by rw [e.1]; exact work_mode hw, e.2.1, e.2.2⟩

theorem not_admitted (h : Inert s) (hw : s.working = false) {adm} (ha : adm = .cleaning ∨ adm = .enter ∨ adm = .service) :
    modeRefusal adm s.plk.mode ≠ none := by
  obtain ⟨-, -, -, -, -, hm⟩ := h.parked hw
  rcases hm with hm | hm <;> rcases ha with rfl | rfl | rfl <;> simp [hm, modeRefusal]

theorem start_of (h : Inert s) (hw : s.working = false) (hr : modeRefusal .unlessHalted s.plk.mode = none) : s.plk.mode = .start := by
  obtain ⟨-, -, -, -, -, hm⟩ := h.parked hw
  rcases hm with hm | hm
  · exact hm
  · simp [hm, modeRefusal] at hr

theorem orderTest_start (r z t f) (hm : s.plk.mode = .start) : s.orderTest r z t f = some .notReady := by
  simp [State.orderTest, hm]

theorem bare_admitOrder (o) : (admitOrder o s).1.bare = s.bare := by
  simp [admitOrder]

theorem bare_cancelRun (n) : (cancelRun n s).1.bare = s.bare := by
  simp only [cancelRun, brcAbort]; (repeat' split) <;> first | rfl | simp
theorem bare_cancelOrder (n) : (cancelOrder n s).1.1.bare = s.bare := by
  simp only [cancelOrder]; (repeat' split) <;> first | rfl | exact bare_cancelRun n | simp

theorem bare_serviceDrive (c v e) (h : serviceDrive c v s = .ok e) : e.1.bare = s.bare := by
  simp only [serviceDrive, serviceGrindOff, serviceGrindOn, serviceMove] at h
  repeat' split at h
  all_goals first | (cases h; done) | (cases h; (repeat' split) <;> first | rfl | (simp; done) | (simp [moveOver]; done))

theorem enterMode_tri (m) (hm : m ≠ .halted) : (enterMode m s).1.plk.mode ≠ .halted ∧ (enterMode m s).1.cfl = s.cfl
    ∧ (enterMode m s).1.pins.resetAsserted = s.pins.resetAsserted := by
  simp only [enterMode]
  split
  · have := bare_of_quiet (quiet_phaseSet (s := s.onPlk fun p => { p with mode := m }) .idle)
    simp only [State.bare, Prod.mk.injEq] at this
    simp [this, hm]
  · exact ⟨hm, rfl, rfl⟩

theorem react_tri (e : Eff) (h : e.1.plk.mode ≠ .halted ∧ e.1.cfl = s.cfl ∧ e.1.pins.resetAsserted = s.pins.resetAsserted) :
    (react e).plk.mode ≠ .halted ∧ (react e).cfl = s.cfl ∧ (react e).pins.resetAsserted = s.pins.resetAsserted := by
  have := bare_react e
  simp only [State.bare, Prod.mk.injEq] at this
  simp only [this]; exact h

theorem tri_kept {u : State} (h : u.plk.mode ≠ .halted ∧ u.cfl = s.cfl ∧ u.pins.resetAsserted = s.pins.resetAsserted) (e : t.bare = u.bare) :
    t.plk.mode ≠ .halted ∧ t.cfl = s.cfl ∧ t.pins.resetAsserted = s.pins.resetAsserted := by
  simp only [State.bare, Prod.mk.injEq] at e
  rwa [e.1, e.2.1, e.2.2]

theorem tri_trans {u : State} (h : u.plk.mode ≠ .halted ∧ u.cfl = t.cfl ∧ u.pins.resetAsserted = t.pins.resetAsserted) (e : t.bare = s.bare) :
    u.plk.mode ≠ .halted ∧ u.cfl = s.cfl ∧ u.pins.resetAsserted = s.pins.resetAsserted := by
  simp only [State.bare, Prod.mk.injEq] at e
  rw [h.2.1, h.2.2, e.2.1, e.2.2]; exact ⟨h.1, rfl, rfl⟩

theorem inert_requests (h : Inert s) : (∀ n, Inert (reqLogAck n s)) ∧ Inert (reqStatus s) ∧ Inert (reqNoticeRead s) ∧ Inert (reqLogRead s)
   ∧ (∀ r z t m, Inert (reqOrder r z t m s)) ∧ (∀ n, Inert (reqCancel n s)) ∧ (∀ n, Inert (reqCleanRequest n s)) ∧ Inert (reqCleanCancel s)
   ∧ Inert (reqPromptDone s) ∧ Inert (reqServiceEnter s) ∧ Inert (reqServiceLeave s) ∧ Inert (reqServiceReset s) ∧ (∀ c v, Inert (reqServiceDrive c v s)) ∧ Inert (reqPartId s) := by
  have no : ∀ (adm) (ha : adm = .cleaning ∨ adm = .enter ∨ adm = .service) (u : State), s.working = false → modeRefusal adm s.plk.mode = none → Inert u :=
    fun adm ha u hw hr => absurd hr (not_admitted h hw ha)
  refine ⟨?_, ?_, ?_, ?_, ?_, ?_, ?_, ?_, ?_, ?_, ?_, ?_, ?_, ?_⟩
  · intro n
    have : (answerLogAck n s).state.bare = s.bare ∧ (answerLogAck n s).state.dcu = s.dcu ∧ (answerLogAck n s).state.oru = s.oru := by
      simp only [answerLogAck]; split <;> exact ⟨rfl, rfl, rfl⟩
    exact inert_request _ _ _ _ (fun hw => tri_of_bare this.1 hw) (fun _ _ => inert_of_eq this.2.1 (by rw [this.2.2]) this.1 h) h
  · exact inert_request _ _ _ _ (fun hw => tri_of_bare (s := s) rfl hw) (fun _ _ => h) h
  · exact inert_request _ _ _ _ (fun hw => tri_of_bare (s := s) rfl hw) (fun _ _ => inert_of_eq (s := s) rfl rfl rfl h) h
  · exact inert_request _ _ _ _ (fun hw => tri_of_bare (s := s) rfl hw) (fun _ _ => h) h
  · intro r z t m
    refine inert_request _ _ _ _ (fun hw => ?_) (fun hw hr => ?_) h
    · refine tri_of_bare ?_ hw
      simp only [answerOrder]; (repeat' split) <;> first | rfl | (simp only [answerOk, bare_react, bare_admitOrder])
    · simp only [answerOrder, orderTest_start _ _ _ _ (start_of h hw hr)]
      split <;> exact h
  · intro n
    refine inert_request _ _ _ _ (fun hw => ?_) (fun hw hr => ?_) h
    · refine tri_of_bare ?_ hw
      simp only [answerCancel]; split
      · rfl
      · rw [bare_react, bare_cancelOrder]
    · have hq := (h.parked hw).2.2.2.2.1
      simp only [answerCancel, cancelOrder, State.orderOf, hq]
      exact h
  · intro n
    refine inert_request _ _ _ _ (fun hw => ?_) (fun hw hr => no _ (.inl rfl) _ hw hr) h
    refine tri_of_bare ?_ hw
    simp only [answerCleanRequest]; split
    · rfl
    · simp [answerOk]
  · refine inert_request _ _ _ _ (fun hw => ?_) (fun hw hr => no _ (.inl rfl) _ hw hr) h
    refine tri_of_bare ?_ hw
    simp only [answerCleanCancel]; split
    · rfl
    · simp [answerOk]
  · refine inert_request _ _ _ _ (fun hw => ?_) (fun hw hr => no _ (.inl rfl) _ hw hr) h
    refine tri_of_bare ?_ hw
    simp only [answerPromptDone]; split
    · simp [answerOk]
    · rfl
  · refine inert_request _ _ _ _ (fun hw => ?_) (fun hw hr => no _ (.inr (.inl rfl)) _ hw hr) h
    simp only [answerServiceEnter]
    repeat' split
    all_goals first
      | exact tri_of_bare (s := s) rfl hw
      | exact react_tri (s := s) _ (tri_kept (enterMode_tri .service (by simp)) bare_clearStandby)
  · refine inert_request _ _ _ _ (fun hw => ?_) (fun hw hr => no _ (.inr (.inr rfl)) _ hw hr) h
    refine react_tri (s := s) _ ?_
    exact tri_trans (enterMode_tri .serving (by simp)) (by simp)
  · refine inert_request _ _ _ _ (fun hw => ?_) (fun hw hr => no _ (.inr (.inr rfl)) _ hw hr) h
    exact tri_of_bare (by simp [answerServiceReset, answerOk, serviceReset]) hw
  · intro c v
    refine inert_request _ _ _ _ (fun hw => ?_) (fun hw hr => no _ (.inr (.inl rfl)) _ hw hr) h
    refine tri_of_bare ?_ hw
    simp only [answerServiceDrive]; repeat' split
    all_goals first | rfl | (simp only [answerOk, bare_react]; exact bare_serviceDrive _ _ _ (by assumption))
  · exact inert_request _ _ _ _ (fun hw => tri_of_bare (s := s) rfl hw) (fun _ _ => h) h

theorem inert_readReply (a b c) (h : Inert s) : Inert (readReply a b c s) := by
  simp only [readReply]; (repeat' split) <;> first | exact h | exact inert_of_eq (s := s) rfl rfl rfl h

theorem inert_panel (b) (h : Inert s) : Inert (panelTransfer b s) := by
  obtain ⟨a1,a2,a3,a4,a5,a6,a7,a8,a9,a10,a11,a12,a13,a14⟩ := inert_requests h
  simp only [panelTransfer, requestOf]
  (repeat' split) <;> first | exact h | exact inert_readReply _ _ _ h | exact inert_of_eq (s := s) rfl rfl rfl h | assumption | apply a1 | apply a5 | apply a6 | apply a7 | apply a13


/-! ### Resets and the load -/

theorem safe_powerOn (b) : Safe (powerOn b s) := by
  refine ⟨locks_of_parked ⟨rfl, rfl, rfl, rfl⟩, ⟨fun _ => ⟨rfl, rfl, rfl, rfl, rfl, .inl rfl⟩, fun _ => ⟨rfl, rfl⟩⟩⟩

theorem safe_warmReset : Safe (warmReset s) := by
  refine ⟨locks_of_parked ⟨rfl, rfl, rfl, rfl⟩, ⟨fun _ => ⟨rfl, rfl, rfl, rfl, rfl, .inl rfl⟩, fun _ => ⟨rfl, rfl⟩⟩⟩

theorem safe_resetAssert (b) (h : Safe s) : Safe (resetAssert b s) := by
  simp only [resetAssert]; (repeat' split)
  · exact h
  · exact safe_warmReset
  · exact safe_powerOn true

theorem safe_resetNegate (h : Safe s) : Safe (resetNegate s) := by
  simp only [resetNegate]; split
  · rename_i hr
    obtain ⟨hl, hm⟩ := h.2.starting (.inr hr)
    have hw : s.working = false := by simp [State.working, hl]
    obtain ⟨a, b, c, d, e, f⟩ := h.2.parked hw
    exact ⟨locks_of_parked ⟨a, b, c, d⟩, ⟨fun _ => ⟨a, b, c, d, e, f⟩, fun _ => ⟨hl, hm⟩⟩⟩
  · exact h

theorem offerFrame_dcu (o) : (offerFrame o s).dcu = s.dcu := by
  simp only [offerFrame, postNotice]; (repeat' split) <;> rfl
theorem staleMark_dcu (b) : (staleMark b s).dcu = s.dcu := by
  simp only [staleMark]; (repeat' split) <;> first | rfl | exact offerFrame_dcu _
theorem loadLine_dcu (c) : (loadLine c s).dcu = s.dcu := by
  simp only [loadLine]; exact staleMark_dcu true

theorem bare_loadLine (c) : (loadLine c s).bare = (s.plk.mode, { s.cfl with loaded := some c, result := .ok, reading := .none, coldStart := false }, s.pins.resetAsserted) := by
  simp only [loadLine, bare_staleMark]; rfl

theorem locks_loadBrewer (b) (h : Interlocks s) : Interlocks (loadBrewer b s) := by
  simp only [loadBrewer]; (repeat' split) <;> simp (maxDischargeDepth := 12) [h]
theorem bare_loadBrewer (b) : (loadBrewer b s).bare = s.bare := by
  simp only [loadBrewer]; (repeat' split) <;> simp

theorem locks_loadLatches (h : Interlocks s) : Interlocks (loadLatches s).1 := by
  have h1 : Interlocks (if (s.pins.brTop && s.pins.brBot) = true then stuckLatch 2 s else (s, [])).1 := by
    split <;> simp [h]
  simp only [loadLatches]
  split
  · exact locks_overheatLatch h1.grinder h1.pump h1.brewer
  · exact h1
theorem bare_loadLatches : (loadLatches s).1.bare = s.bare := by
  simp only [loadLatches, overheatLatch]; (repeat' split) <;> first | rfl | simp
theorem locks_loadDue (h : Interlocks s) : Interlocks (loadDue s) := by
  simp only [loadDue]; (repeat' split) <;> simp (maxDischargeDepth := 12) [h]
theorem bare_loadDue : (loadDue s).bare = s.bare := by
  simp only [loadDue]; (repeat' split) <;> simp
theorem locks_loadWatermark (h : Interlocks s) : Interlocks (loadWatermark s) := by
  simp only [loadWatermark]; (repeat' split) <;> simp (maxDischargeDepth := 12) [h]
theorem bare_loadWatermark : (loadWatermark s).bare = s.bare := by
  simp only [loadWatermark]; (repeat' split) <;> simp

theorem bare_enterServing : (enterMode .serving s).1.bare = (.serving, s.cfl, s.pins.resetAsserted) := by
  simp only [enterMode, if_true, bare_phaseSet]; rfl

theorem safe_loadOk (c) (hst : s.still) (hr : s.pins.resetAsserted = false) : Safe (loadOk c s) := by
  have h0 : Interlocks (loadLine c s) := locks_of_parked (by rw [loadLine_dcu]; exact hst)
  have h1 := locks_loadLatches (locks_loadBrewer s.cfl.coldStart h0)
  refine ⟨?_, ?_⟩
  · simp only [loadOk]
    refine locks_react _ (locks_enterMode _ (locks_onPyu _ (locks_loadWatermark (locks_loadDue ?_))))
    exact runActs_keeps Interlocks (fun a _ hs => locks_perform a hs) _ _ _ h1
  · have hb : (loadOk c s).bare = (.serving, { s.cfl with loaded := some c, result := .ok, reading := .none, coldStart := false }, s.pins.resetAsserted) := by
      simp only [loadOk, bare_react, bare_enterServing]
      have : ∀ u : State, (u.onPyu fun w => { w with reader := .gap s.units }).cfl = u.bare.2.1 ∧ (u.onPyu fun w => { w with reader := .gap s.units }).pins.resetAsserted = u.bare.2.2 := fun _ => ⟨rfl, rfl⟩
      rw [(this _).1, (this _).2]
      simp only [bare_loadWatermark, bare_loadDue, bare_runActs, bare_loadLatches, bare_loadBrewer, bare_loadLine]
    simp only [State.bare, Prod.mk.injEq] at hb
    constructor
    · intro hw
      simp [State.working, hb] at hw
    · intro he
      simp [hb, hr] at he

theorem safe_configRead (i) (h : Safe s) : Safe (configRead i s) := by
  simp only [configRead]
  split
  · exact h
  · rename_i hr
    have hr : s.pins.resetAsserted = false := by simpa using hr
    have key : s.cfl.reading ≠ .none → s.cfl.loaded = none ∧ s.plk.mode = .start ∧ s.still ∧ s.oru.queue = [] := by
      intro hn
      obtain ⟨hl, hm⟩ := h.2.starting (.inl hn)
      have hw : s.working = false := by simp [State.working, hl]
      obtain ⟨a, b, c, d, e, f⟩ := h.2.parked hw
      exact ⟨hl, hm, ⟨a, b, c, d⟩, e⟩
    split
    · exact h
    · rename_i hn
      exact safe_loadOk _ (key (by intro e; exact hn e)).2.2.1 hr
    · rename_i hf _
      obtain ⟨hl, hm, hst, hq⟩ := key (by simp [hf])
      refine ⟨locks_of_parked hst, ⟨fun _ => ⟨hst.1, hst.2.1, hst.2.2.1, hst.2.2.2, hq, .inl hm⟩, fun _ => ⟨hl, hm⟩⟩⟩
    · rename_i hf _
      obtain ⟨hl, hm, hst, hq⟩ := key (by simp [hf])
      have hp := @stopLevels_parked { s with cfl := { s.cfl with result := imageTest i, reading := .none } }
      have hbq := quiet_stopLevels (s := { s with cfl := { s.cfl with result := imageTest i, reading := .none } })
      have hb := bare_of_quiet hbq
      simp only [State.bare, Prod.mk.injEq] at hb
      have hqq : (stopLevels { s with cfl := { s.cfl with result := imageTest i, reading := .none } }).oru = s.oru := by
        simp only [stopLevels, setPump, setGrinder, monitorReleased, onCounter]
        (repeat' split) <;> rfl
      refine ⟨locks_of_parked hp, ⟨fun _ => ⟨hp.1, hp.2.1, hp.2.2.1, hp.2.2.2, ?_, .inr rfl⟩, ?_⟩⟩
      · exact (congrArg Oru.queue hqq).trans hq
      · intro he
        simp [loadFail, hb, hr] at he

/-! ### Every command -/

theorem bare_lineBreak : (lineBreak s).bare = s.bare := by simp only [lineBreak]; split <;> rfl
theorem tick_facts : (tick s).bare = s.bare ∧ (tick s).oru = s.oru ∧ ((tick s).dcu = s.dcu ∨ (tick s).dcu = { s.dcu with pumpPeriod := s.dcu.pump, grinderPeriod := (tick s).dcu.grinderPeriod }) ∧ (tick s).grc = s.grc ∧ (tick s).cnu = s.cnu ∧ (tick s).brc = s.brc ∧ (tick s).pins = s.pins := by
  simp only [tick, latchDuties, tickLine]; (repeat' split) <;> simp [State.bare] 

theorem safe_of_line (t : State) (h : Safe s) (e1 : t.dcu = s.dcu) (e2 : t.oru = s.oru) (e3 : t.bare = s.bare) (e4 : t.grc = s.grc) (e5 : t.cnu = s.cnu)
   (e6 : t.brc = s.brc) (e7 : t.pins = s.pins) : Safe t := by
  refine ⟨Interlocks.of_drive (s := s) ?_ h.1, inert_of_eq e1 (by rw [e2]) e3 h.2⟩
  simp only [State.bare, Prod.mk.injEq] at e3
  simp only [State.drive, e1, e4, e5, e6, e7, e3.2.1]


theorem locks_denyTap (o n) (h : Interlocks s) : Interlocks (denyTap o n s) := by
  simp only [denyTap]; split <;> simp (maxDischargeDepth := 12) [h]
theorem bare_denyTap (o n) : (denyTap o n s).bare = s.bare := by
  simp only [denyTap]; split <;> simp
theorem locks_startPayment (p) (h : Interlocks s) : Interlocks (startPayment p s) := by
  simp only [startPayment, useRefund, oruPaying]
  (repeat' split) <;> first | exact locks_denyTap _ _ h | simp (maxDischargeDepth := 12) [h]
theorem bare_startPayment (p) : (startPayment p s).bare = s.bare := by
  simp only [startPayment, useRefund, oruPaying]
  (repeat' split) <;> first | exact bare_denyTap _ _ | simp
theorem locks_tap (b n q) (h : Interlocks s) : Interlocks (tap b n q s) := by
  simp only [tap]
  (repeat' split) <;> first | exact locks_denyTap _ _ h | exact locks_startPayment _ h
@[simp] theorem bare_tap (b n q) : (tap b n q s).bare = s.bare := by
  simp only [tap]
  (repeat' split) <;> first | exact bare_denyTap _ _ | exact bare_startPayment _

theorem locks_completeTail (p o c) (h : Interlocks s) : Interlocks (completeTail p o c s) := by
  simp (maxDischargeDepth := 12) [completeTail, h]
theorem bare_completeTail (p o c) : (completeTail p o c s).bare = s.bare := by
  simp [completeTail]
@[simp] theorem locks_completeAppends (p) (h : Interlocks s) : Interlocks (completeAppends p s) := by
  simp only [completeAppends]
  (repeat' split) <;> first | exact h | simp (maxDischargeDepth := 12) [h]
@[simp] theorem bare_completeAppends (p) : (completeAppends p s).bare = s.bare := by
  simp only [completeAppends]
  (repeat' split) <;> first | rfl | simp
@[simp] theorem locks_completePayment (h : Interlocks s) : Interlocks (completePayment s).1 := by
  simp only [completePayment, oruPaid]
  (repeat' split) <;> first | exact h | exact locks_completeTail _ _ _ (by simp (maxDischargeDepth := 12) [h])
@[simp] theorem bare_completePayment : (completePayment s).1.bare = s.bare := by
  simp only [completePayment, oruPaid]
  (repeat' split) <;> first | rfl | (rw [bare_completeTail]; simp)

theorem locks_readerPresent (b n q) (h : Interlocks s) : Interlocks (readerPresent b n q s).1 := by
  simp only [readerPresent, retap]
  (repeat' split) <;> first | exact h | exact locks_tap _ _ _ h | (simp (maxDischargeDepth := 12) [h]; done)
theorem bare_readerPresent (b n q) : (readerPresent b n q s).1.bare = s.bare := by
  simp only [readerPresent, retap]
  (repeat' split) <;> first | rfl | (simp; done)
theorem locks_readerRemoved (b) (h : Interlocks s) : Interlocks (readerRemoved b s).1 := by
  simp only [readerRemoved]; split <;> simp [h]
theorem bare_readerRemoved (b) : (readerRemoved b s).1.bare = s.bare := by
  simp only [readerRemoved]; split <;> simp
theorem locks_readerWritten (b n) (h : Interlocks s) : Interlocks (readerWritten b n s).1 := by
  simp only [readerWritten]; split <;> simp (maxDischargeDepth := 12) [h]
theorem bare_readerWritten (b n) : (readerWritten b n s).1.bare = s.bare := by
  simp only [readerWritten]; split <;> simp
theorem locks_enterVerify (h : Interlocks s) : Interlocks (enterVerify s) := by
  simp only [enterVerify]; split <;> simp (maxDischargeDepth := 12) [h]
theorem bare_enterVerify : (enterVerify s).bare = s.bare := by
  simp only [enterVerify]; split <;> simp
theorem locks_readerWriteFailed (b n) (h : Interlocks s) : Interlocks (readerWriteFailed b n s).1 := by
  simp only [readerWriteFailed]; (repeat' split) <;> first | exact h | exact locks_enterVerify h | simp [h]
theorem bare_readerWriteFailed (b n) : (readerWriteFailed b n s).1.bare = s.bare := by
  simp only [readerWriteFailed]; (repeat' split) <;> first | rfl | exact bare_enterVerify | simp
theorem locks_takeReaderRecord (r) (h : Interlocks s) : Interlocks (takeReaderRecord r s).1 := by
  cases r
  · exact locks_readerPresent _ _ _ h
  · exact locks_readerRemoved _ h
  · exact locks_readerWritten _ _ h
  · exact locks_readerWriteFailed _ _ h
theorem bare_takeReaderRecord (r) : (takeReaderRecord r s).1.bare = s.bare := by
  cases r
  · exact bare_readerPresent _ _ _
  · exact bare_readerRemoved _
  · exact bare_readerWritten _ _
  · exact bare_readerWriteFailed _ _

theorem locks_tapExpiry (n) (h : Interlocks s) : Interlocks (tapExpiry n s).1 := by
  simp only [tapExpiry]; (repeat' split) <;> simp (maxDischargeDepth := 12) [h]
theorem bare_tapExpiry (n) : (tapExpiry n s).1.bare = s.bare := by
  simp only [tapExpiry]; (repeat' split) <;> simp
theorem locks_retapEnd (h : Interlocks s) : Interlocks (retapEnd s).1 := by
  simp only [retapEnd]; (repeat' split) <;> first | exact h | simp (maxDischargeDepth := 12) [h]
theorem bare_retapEnd : (retapEnd s).1.bare = s.bare := by
  simp only [retapEnd]; (repeat' split) <;> first | rfl | simp
theorem locks_readerSend (h : Interlocks s) : Interlocks (readerSend s) := by
  simp only [readerSend]; (repeat' split) <;> first | exact h | simp (maxDischargeDepth := 12) [h]
theorem bare_readerSend : (readerSend s).bare = s.bare := by
  simp only [readerSend]; (repeat' split) <;> first | rfl | simp
theorem locks_holdWaitEnd (h : Interlocks s) : Interlocks (holdWaitEnd s).1 := by
  simp only [holdWaitEnd]; split <;> simp [h]
theorem bare_holdWaitEnd : (holdWaitEnd s).1.bare = s.bare := by
  simp only [holdWaitEnd]; split <;> simp
theorem locks_refreshDue (h : Interlocks s) : Interlocks (refreshDue s) := by
  simp only [refreshDue, offerRefresh, offerTake]; (repeat' split) <;> first | exact h | simp (maxDischargeDepth := 12) [h]
theorem bare_refreshDue : (refreshDue s).bare = s.bare := by
  simp only [refreshDue, offerRefresh, offerTake]; (repeat' split) <;> first | rfl | simp
theorem locks_clcStart (h : Interlocks s) : Interlocks (clcStart s).1 := by
  simp only [clcStart]; split <;> first | exact h | simp (maxDischargeDepth := 12) [h]
theorem bare_clcStart : (clcStart s).1.bare = s.bare := by
  simp only [clcStart]; split <;> first | rfl | simp
theorem locks_clcDrop (h : Interlocks s) : Interlocks (clcDrop s).1 := by
  simp only [clcDrop]; split <;> first | exact h | simp (maxDischargeDepth := 12) [h]
theorem bare_clcDrop : (clcDrop s).1.bare = s.bare := by
  simp only [clcDrop]; split <;> first | rfl | simp

end Sys2Proof.Machine
end

