-- ==== Sys2Proof/Laws/Settled.lean ====
section
/-! SUPPORT. In a settled state the reports that end every action do nothing, so an action without reports leaves exactly its
own writes; the standby time where its conditions cease, and reader records taken as rows. -/

namespace Sys2Proof.Machine

/-- None of the closing reports has anything to do in a settled state. -/
theorem settled_perform {s : State} (h : s.Settled) : ∀ a ∈ settleActs, perform a s = (s, []) := by
  intro a ha
  have hslot : s.clc.state ≠ .waitSlot ∨ s.startConditions = true := by
    by_cases c : s.clc.state = .waitSlot
    · exact .inr (h.slot c)
    · exact .inl c
  simp only [settleActs, List.mem_cons, List.not_mem_nil, or_false] at ha
  rcases ha with rfl | rfl | rfl | rfl | rfl | rfl
  · simp [perform, oruCupPending, h.cups]
  · simp [perform, brcHeat, h.heat]
  · simp [perform, brcRegulator, h.regulator]
  · simp only [perform, clcSlotWait]
    rw [if_pos hslot]
  · have hn := h.need
    simp only [perform, stuNeed]
    cases hu : s.unmet <;> rw [hu] at hn <;> simp [hn]
  · have hb := h.standby
    simp only [perform, brcStandby]
    cases hu : s.standbyConditions <;> rw [hu] at hb <;> simp [hb]

/-- An action without reports that leaves a settled state leaves exactly that state. -/
theorem react_settled {s : State} (h : s.Settled) : react (s, []) = s := by
  simp only [react, List.nil_append]
  split
  · exact runActs_idle _ _ (settled_perform h)
  · rfl

/-- Before the load and in HALTED an action without reports leaves exactly its own writes. -/
theorem react_inert {s : State} (h : s.working = false) : react (s, []) = s := by
  simp only [react, h]
  rfl

/-! ### What the closing reports read -/

/-- Everything that the closing reports compare. -/
def State.calm (s : State) :=
  (s.oru.cupPending, s.cupPendingNow, s.heatWishNow, s.brc.heatWish, s.regulatorNow, s.brc.regulator, s.clc.state, s.startConditions,
   s.stu.unmetSince.isSome, s.unmet, s.brc.standbySince.isSome, s.standbyConditions)

/-- A change that the closing reports do not see keeps a state settled. -/
theorem settled_of_calm {s t : State} (h : s.Settled) (e : t.calm = s.calm) : t.Settled := by
  simp only [State.calm, Prod.mk.injEq] at e
  obtain ⟨e1, e2, e3, e4, e5, e6, e7, e8, e9, e10, e11, e12⟩ := e
  exact ⟨by rw [e1, e2]; exact h.cups, by rw [e3, e4]; exact h.heat, by rw [e5, e6]; exact h.regulator,
    by rw [e7, e8]; exact h.slot, by rw [e9, e10]; exact h.need, by rw [e11, e12]; exact h.standby⟩

/-- An action without reports and without a change that the closing reports see leaves exactly its own writes. -/
theorem react_calm {s t : State} (h : s.Settled) (e : t.calm = s.calm) : react (t, []) = t :=
  react_settled (settled_of_calm h e)

variable (s : State)

@[simp] theorem calm_onLau (f : Lau → Lau) : (s.onLau f).calm = s.calm := rfl
@[simp] theorem calm_onDcu (f : Dcu → Dcu) : (s.onDcu f).calm = s.calm := rfl
@[simp] theorem calm_onCnu (f : Cnu → Cnu) : (s.onCnu f).calm = s.calm := rfl
@[simp] theorem calm_onPyu (f : Pyu → Pyu) : (s.onPyu f).calm = s.calm := rfl
@[simp] theorem calm_onPlg (f : Plg → Plg) : (s.onPlg f).calm = s.calm := rfl
@[simp] theorem calm_onCounter (c : CounterId) (f : Counter → Counter) : (onCounter c f s).calm = s.calm := by cases c <;> rfl
@[simp] theorem calm_notices (f : List Notice) (b : Bool) :
    (s.onPlk fun p => { p with notices := f, noticesLost := b }).calm = s.calm := rfl
@[simp] theorem calm_postNotice (k : NoticeKind) (o : Option Nat) (c d1 d2 : Nat) : (postNotice k o c d1 d2 s).calm = s.calm := by
  simp only [postNotice]
  repeat' split
  all_goals rfl
@[simp] theorem calm_offerFrame (o : Offer) : (offerFrame o s).calm = s.calm := by
  simp only [offerFrame]
  repeat' split
  all_goals simp
@[simp] theorem calm_offerPlainClaim : (offerPlainClaim s).calm = s.calm := by simp [offerPlainClaim]
@[simp] theorem calm_offerClaim : (offerClaim s).calm = s.calm := by simp [offerClaim]
@[simp] theorem calm_setEntry (n : Nat) (e : ShareEntry) : (setEntry n e s).calm = s.calm := by
  simp only [setEntry]
  split <;> rfl
@[simp] theorem calm_afterFrame (b : Bool) : (s.afterFrame b).calm = s.calm := rfl

/-- Where the conditions of the standby timer have ceased, clearing the standby mark leaves no timer (R120). -/
theorem clearStandby_of_ceased {s : State} (h : s.standbyConditions = false) :
    clearStandby s = (s.onBrc fun b => { b with standby := false, standbySince := none }, if s.brc.standby then [.brcHeat] else []) := by
  simp only [clearStandby, brcStandby, h, Bool.false_eq_true, if_false]
  rcases s with ⟨_, _, _, _, _, _, _, _, ⟨⟩, _, _, _, _, _, _, _⟩
  simp only [State.onBrc]
  (repeat' split) <;> simp_all

/-- Records that passed the tests are taken as their rows are, one after another (R140). -/
theorem feed_readerRows (l : List ReaderRecord) (s : State) : feed (l.map readerRow) s = .next (takeReaderRecords l s) := by
  induction l generalizing s with
  | nil => rfl
  | cons r l ih => cases r <;> exact ih _

end Sys2Proof.Machine
end

