-- ==== Sys2Proof/Laws/TillCommands.lean ====
section
/-! SUPPORT. The money law is kept by the line, share and timer commands, by the requests, by the resets and by the load. -/

namespace Sys2Proof.Machine

variable {s : State}

theorem whenWorking_keeps (f : State → Eff) (P : State → Prop) (hp : ∀ a s, P s → P (perform a s).1) (hf : P s → P (f s).1) (h : P s) : P (whenWorking f s) := by
  unfold whenWorking; split
  · exact react_keeps P hp _ (hf h)
  · exact h
theorem onDue_keeps (d) (f : State → Eff) (P : State → Prop) (hp : ∀ a s, P s → P (perform a s).1) (hf : P s → P (f s).1) (h : P s) : P (onDue d f s) := by
  unfold onDue; split
  · exact react_keeps P hp _ (hf h)
  · exact h

@[simp] theorem till_staleMark (b) : (staleMark b s).till = s.till := by
  simp only [staleMark]; (repeat' split) <;> first | rfl | (simp; done)
@[simp] theorem till_stuWithdraw : (stuWithdraw s).1.till = s.till := by
  simp only [stuWithdraw]; (repeat' split) <;> first | rfl | (simp; done)
@[simp] theorem till_setGuard : (setGuard s).till = s.till := rfl
@[simp] theorem till_toHunt : (toHunt s).till = s.till := rfl
@[simp] theorem till_setEntry (n e) : (setEntry n e s).till = s.till := by simp only [setEntry]; split <;> rfl
@[simp] theorem till_noteSeq (n e) : (noteSeq n e s).till = s.till := by simp [noteSeq]
@[simp] theorem till_staleClear : (staleClear s).1.till = s.till := rfl
@[simp] theorem till_leaveAwaited (n) : (leaveAwaited n s).till = s.till := rfl
@[simp] theorem till_heardAwaited (n) : (heardAwaited n s).1.till = s.till := by simp only [heardAwaited]; split <;> rfl
@[simp] theorem till_disputeTest (a b c d) : (disputeTest a b c d s).till = s.till := by simp only [disputeTest]; (repeat' split) <;> first | rfl | (simp; done)
@[simp] theorem till_noteMismatch (a b c d e) : (noteMismatch a b c d e s).till = s.till := by simp only [noteMismatch]; (repeat' split) <;> first | rfl | (simp; done)
@[simp] theorem till_dropDispute (a b) : (dropDispute a b s).till = s.till := rfl
@[simp] theorem till_isolate : (isolate s).1.till = s.till := by simp [isolate]
@[simp] theorem till_rejoin : (rejoin s).1.till = s.till := by simp only [rejoin]; split <;> simp
@[simp] theorem till_claimPosted (q) : (claimPosted q s).till = s.till := rfl
@[simp] theorem till_notePosted (o q) : (notePosted o q s).1.till = s.till := by simp only [notePosted]; split <;> first | rfl | simp
@[simp] theorem till_stuClaimFailed (o q) : (stuClaimFailed o q s).till = s.till := by simp only [stuClaimFailed]; (repeat' split) <;> rfl
@[simp] theorem till_noteFailed (o q b) : (noteFailed o q b s).1.till = s.till := by simp only [noteFailed]; split <;> first | rfl | simp
@[simp] theorem till_stuGuardEnd : (stuGuardEnd s).1.till = s.till := by simp only [stuGuardEnd]; (repeat' split) <;> rfl
@[simp] theorem till_flowCount : (flowCount s).till = s.till := by simp only [flowCount]; (repeat' split) <;> first | rfl | (simp; done)
@[simp] theorem till_oneShot (c) : (oneShot c s).till = s.till := by simp only [oneShot]; split <;> simp

theorem till_stuDeliver (n f) : (stuDeliver n f s).1.till = s.till := by
  cases f <;> simp only [stuDeliver, stuJoin, stuClaim, stuHold, stuNeedHeard, stuDispute] <;> (repeat' split) <;> first | rfl | (simp; done)
@[simp] theorem till_frameEnd (f) : (frameEnd f s).till = s.till := by
  simp only [frameEnd]; split <;> rfl
theorem till_sameStation (f) : (sameStation f s).till = s.till := by
  simp only [sameStation]; split <;> simp [till_frameEnd]
theorem till_deliver (n f) : (deliver n f s).1.till = s.till := by
  simp only [deliver]; split
  · exact till_sameStation f
  · rw [till_stuDeliver, till_frameEnd]
theorem till_damaged : (damaged s).1.till = s.till := by simp [damaged, stuDamaged]
theorem till_framePosted : (framePosted s).1.till = s.till := by
  simp only [framePosted]; split
  · rfl
  · simp
theorem till_collision : (collision s).1.till = s.till := by
  simp only [collision]; (repeat' split) <;> first | rfl | (simp; done)
theorem till_guardEnd : (guardEnd s).1.till = s.till := by simp [guardEnd]
theorem till_rxTake (a b c) : (rxTake a b c s).1.till = s.till := by
  simp only [rxTake, rxHeader, rxBody, rxCheck, rxComplete]; (repeat' split) <;> first | rfl | exact till_damaged | exact till_framePosted | exact till_deliver _ _
theorem till_rxCharacter (a b c) : (rxCharacter a b c s).1.till = s.till := till_rxTake a b c
theorem till_rxIdle : (rxIdle s).1.till = s.till := by
  simp only [rxIdle]; (repeat' split) <;> first | rfl | exact till_damaged (s := setLine false s)

theorem till_leaseExpire (n) : (leaseExpire n s).1.till = s.till := by simp [leaseExpire]
theorem till_holdExpire (n) : (holdExpire n s).1.till = s.till := by simp [holdExpire]
theorem till_renewal : (renewal s).1.till = s.till := by
  simp only [renewal]; (repeat' split) <;> simp
theorem till_flowRise : (flowRise s).1.till = s.till := by
  simp only [flowRise, terminalCount]; (repeat' split) <;> first | rfl | (simp; done)
theorem till_encoderChange (a b) : (encoderChange a b s).1.till = s.till := by
  simp only [encoderChange, encoderMove, terminalCount]; (repeat' split) <;> first | rfl | (simp; done)
theorem ledger_admit (r z t m) (h : Ledger s) : Ledger (answerOrder r z t m s).state := by
  simp only [answerOrder]
  repeat' split
  · exact h
  · exact h
  · rename_i ht
    refine ledger_react _ (ledger_admitOrder _ ?_ rfl (orderTest_room ht) h)
    exact orderNumber_new (s := s) (Nat.le_of_lt (orderTest_room ht))

theorem ledger_place (k c a) (h : Ledger a.state) : Ledger (placeReply k c a) := Ledger.of_till (s := a.state) rfl h
theorem ledger_request (k n a) (o : State → Answer) (ho : Ledger (o s).state) (h : Ledger s) : Ledger (request k n a o s) := by
  simp only [request]; (repeat' split) <;> first | exact h | exact ledger_place _ _ _ ho | exact ledger_place _ _ _ h

theorem ledger_ack (n) (l : List LogEntry) : ∀ r, ackLog n l = some r → r.length ≤ l.length := by
  induction l with
  | nil => simp [ackLog]
  | cons e rest ih =>
    intro r h
    simp only [ackLog] at h
    split at h
    · cases h; simp
    · have := ih r h; simp; omega

theorem ledger_logAck (n) (h : Ledger s) : Ledger (answerLogAck n s).state := by
  simp only [answerLogAck]; split
  · exact h
  · rename_i r hr
    have hl := ledger_ack n _ r hr
    obtain ⟨h1, h2, h3, h4, h5⟩ := h
    exact ⟨by simp [answerOk]; omega, h2, h3, h4, h5⟩

theorem till_serviceLeave : (serviceLeave s).1.till = s.till := by
  simp only [serviceLeave, enterMode]; (repeat' split) <;> simp

theorem till_serviceDrive (c v e) (h : serviceDrive c v s = .ok e) : e.1.till = s.till := by
  simp only [serviceDrive, serviceGrindOff, serviceGrindOn, serviceMove] at h
  repeat' split at h
  all_goals first | (cases h; done) | (cases h; (repeat' split) <;> first | rfl | (simp; done) | (simp [moveOver]; done))

theorem ledger_requests : Ledger s → (∀ n, Ledger (reqLogAck n s)) ∧ Ledger (reqStatus s) ∧ Ledger (reqNoticeRead s) ∧ Ledger (reqLogRead s)
   ∧ (∀ r z t m, Ledger (reqOrder r z t m s)) ∧ (∀ n, Ledger (reqCancel n s)) ∧ (∀ n, Ledger (reqCleanRequest n s)) ∧ Ledger (reqCleanCancel s)
   ∧ Ledger (reqPromptDone s) ∧ Ledger (reqServiceEnter s) ∧ Ledger (reqServiceLeave s) ∧ Ledger (reqServiceReset s) ∧ (∀ c v, Ledger (reqServiceDrive c v s)) ∧ Ledger (reqPartId s) := by
  intro h
  refine ⟨?_, ?_, ?_, ?_, ?_, ?_, ?_, ?_, ?_, ?_, ?_, ?_, ?_, ?_⟩
  · intro n; exact ledger_request _ _ _ _ (ledger_logAck n h) h
  · exact ledger_request _ _ _ _ h h
  · exact ledger_request _ _ _ _ (Ledger.of_till (s := s) rfl h) h
  · exact ledger_request _ _ _ _ h h
  · intro r z t m; exact ledger_request _ _ _ _ (ledger_admit _ _ _ _ h) h
  · intro n; refine ledger_request _ _ _ _ ?_ h
    simp only [answerCancel]; split
    · exact h
    · exact ledger_react _ (ledger_cancelOrder n h)
  · intro n; refine ledger_request _ _ _ _ ?_ h
    simp only [answerCleanRequest]; split
    · exact h
    · exact ledger_react _ (Ledger.of_till (s := s) (by simp) h)
  · refine ledger_request _ _ _ _ ?_ h
    simp only [answerCleanCancel]; split
    · exact h
    · exact ledger_react _ (Ledger.of_till (s := s) (by simp) h)
  · refine ledger_request _ _ _ _ ?_ h
    simp only [answerPromptDone]; split
    · exact ledger_react _ (Ledger.of_till (s := s) (by simp) h)
    · exact h
  · refine ledger_request _ _ _ _ ?_ h
    simp only [answerServiceEnter]; repeat' split
    all_goals first | exact h | exact ledger_react _ (Ledger.of_till (s := s) (by simp [enterMode]) h)
  · refine ledger_request _ _ _ _ ?_ h
    exact ledger_react _ (Ledger.of_till (s := s) till_serviceLeave h)
  · refine ledger_request _ _ _ _ ?_ h
    exact ledger_react _ (Ledger.of_till (s := s) rfl h)
  · intro c v; refine ledger_request _ _ _ _ ?_ h
    simp only [answerServiceDrive]; repeat' split
    all_goals first | exact h | exact ledger_react _ (Ledger.of_till (s := s) (till_serviceDrive _ _ _ (by assumption)) h)
  · exact ledger_request _ _ _ _ h h

theorem till_of_plk (f) : (s.onPlk f).till = s.till := rfl
theorem ledger_readReply (a b c) (h : Ledger s) : Ledger (readReply a b c s) := by
  simp only [readReply]; (repeat' split) <;> first | exact h | exact Ledger.of_till (s := s) rfl h

theorem ledger_panel (b) (h : Ledger s) : Ledger (panelTransfer b s) := by
  obtain ⟨a1,a2,a3,a4,a5,a6,a7,a8,a9,a10,a11,a12,a13,a14⟩ := ledger_requests h
  simp only [panelTransfer, requestOf]
  (repeat' split) <;> first | exact h | exact ledger_readReply _ _ _ h | exact Ledger.of_till (s := s) rfl h | exact ledger_place _ _ _ h | assumption | apply a1 | apply a5 | apply a6 | apply a7 | apply a13



@[simp] theorem till_stuckLatch' (n) : (stuckLatch n s).1.till = s.till := by simp
theorem till_loadLine (c) : (loadLine c s).till = s.till := by simp only [loadLine, till_staleMark]; rfl
theorem till_loadBrewer (b) : (loadBrewer b s).till = s.till := by simp only [loadBrewer]; (repeat' split) <;> first | rfl | simp
theorem till_loadLatches : (loadLatches s).1.till = s.till := by
  simp only [loadLatches, overheatLatch]; (repeat' split) <;> first | rfl | simp
theorem till_loadDue : (loadDue s).till = s.till := by
  simp only [loadDue]; (repeat' split) <;> simp
theorem ledger_loadWatermark (h : Ledger s) : Ledger (loadWatermark s) := by
  simp only [loadWatermark]; split
  · exact Ledger.of_eq (s := s) rfl rfl rfl rfl h
  · exact Ledger.of_till (till_postNotice _ _ _ _ _) (Ledger.of_eq (s := s) rfl rfl rfl rfl h)
theorem till_enterMode (m) : (enterMode m s).1.till = s.till := by simp only [enterMode]; split <;> simp

theorem ledger_configRead (i) (h : Ledger s) : Ledger (configRead i s) := by
  simp only [configRead]
  (repeat' split)
  · exact h
  · exact h
  · simp only [loadOk]
    refine ledger_react _ (Ledger.of_till (till_enterMode _) ?_)
    refine Ledger.of_eq (s := loadWatermark (loadDue (runActs reportBound (loadLatches (loadBrewer s.cfl.coldStart (loadLine (cfgOf (imageAt i)) s))).snd
            (loadLatches (loadBrewer s.cfl.coldStart (loadLine (cfgOf (imageAt i)) s))).fst))) rfl rfl rfl rfl (ledger_loadWatermark (Ledger.of_till till_loadDue ?_))
    refine runActs_keeps Ledger (fun a _ hs => ledger_perform a hs) _ _ _ ?_
    exact Ledger.of_till (by rw [till_loadLatches, till_loadBrewer, till_loadLine]) h
  · exact Ledger.of_till (s := s) rfl h
  · refine Ledger.of_till (s := s) ?_ h
    simp only [loadFail, till_onPlk, till_stopLevels]; rfl

theorem ledger_resetAssert (b) (h : Ledger s) : Ledger (resetAssert b s) := by
  simp only [resetAssert]; (repeat' split)
  · exact h
  · exact ledger_warmReset h
  · exact ledger_reset _ _ _
theorem ledger_resetNegate (h : Ledger s) : Ledger (resetNegate s) := by
  simp only [resetNegate]; split
  · exact Ledger.of_till (s := s) rfl h
  · exact h
theorem till_lineLow (b) : (lineLow b s).till = s.till := by simp only [lineLow]; split <;> rfl
theorem till_tick : (tick s).till = s.till := by simp only [tick]; (repeat' split) <;> rfl

end Sys2Proof.Machine
end

