-- ==== Sys2Proof/Tests/Slice0.lean ====
section
/-! SUPPORT. Tests on small states: the checks of well-formedness, the encodings, the hypotheses of the statements. -/

namespace Sys2Proof.Tests

/- The tests are evaluations by the kernel, taken one after another: a thread for each at once would need more memory than the check
gives. -/
set_option Elab.async false

open Sys2Proof Sys2Proof.Machine

/-! ### An image, its configuration, and small states -/

/-- An image that passes every test of R204. -/
def testImage : List Byte :=
  [1#8, 3#8, 4#8, 100#8, 2#8, 30#8, 6#8, 20#8, 50#8, 4#8, 10#8, 60#8, 20#8, 80#8, 3#8, 4#8, 20#8, 1#8, 244#8, 1#8, 44#8, 2#8, 88#8, 0#8, 90#8, 0#8, 50#8, 30#8, 0#8, 120#8, 40#8, 5#8]
    ++ [30#8, 5#8, 20#8, 10#8, 10#8, 30#8, 30#8, 36#8, 0#8, 0#8, 0#8, 0#8, 60#8, 1#8, 0#8, 0#8, 0#8, 0#8, 0#8, 0#8, 100#8, 1#8, 0#8, 0#8, 0#8, 0#8, 1#8, 0#8, 0#8, 0#8, 1#8, 0#8]
    ++ [80#8, 1#8, 0#8, 1#8, 0#8, 0#8, 0#8, 0#8, 0#8, 0#8, 0#8, 0#8, 10#8, 0#8, 200#8, 0#8, 100#8, 20#8, 48#8, 3#8, 90#8, 5#8, 4#8, 0#8, 40#8, 0#8, 80#8, 0#8, 160#8, 0#8, 150#8, 0#8]
    ++ [180#8, 255#8, 255#8, 90#8, 5#8, 4#8, 0#8, 40#8, 0#8, 80#8, 0#8, 160#8, 0#8, 150#8, 0#8, 180#8, 255#8, 255#8, 90#8, 5#8, 4#8, 0#8, 40#8, 0#8, 80#8, 0#8, 160#8, 0#8, 150#8, 0#8, 180#8, 255#8]
    ++ [255#8, 90#8, 5#8, 4#8, 0#8, 40#8, 0#8, 80#8, 0#8, 160#8, 0#8, 150#8, 0#8, 180#8, 255#8, 255#8, 90#8, 5#8, 4#8, 0#8, 40#8, 0#8, 80#8, 0#8, 160#8, 0#8, 150#8, 0#8, 180#8, 255#8, 255#8, 90#8]
    ++ [5#8, 4#8, 0#8, 40#8, 0#8, 80#8, 0#8, 160#8, 0#8, 150#8, 0#8, 180#8, 255#8, 255#8, 90#8, 5#8, 4#8, 0#8, 40#8, 0#8, 80#8, 0#8, 160#8, 0#8, 150#8, 0#8, 180#8, 255#8, 255#8, 90#8, 5#8, 4#8]
    ++ [0#8, 40#8, 0#8, 80#8, 0#8, 160#8, 255#8, 255#8, 255#8, 255#8, 255#8, 255#8, 0#8, 0#8, 0#8, 0#8, 0#8, 0#8, 0#8, 0#8, 0#8, 0#8, 0#8, 0#8, 0#8, 0#8, 0#8, 0#8, 0#8, 0#8, 0#8, 0#8]
    ++ [0#8, 0#8, 0#8, 0#8, 0#8, 0#8, 0#8, 0#8, 0#8, 0#8, 0#8, 0#8, 0#8, 0#8, 0#8, 0#8, 0#8, 0#8, 0#8, 0#8, 0#8, 0#8, 0#8, 0#8, 0#8, 0#8, 0#8, 0#8, 0#8, 0#8, 119#8, 55#8]

/-- Its recipes: seven with prices for S and M, one with none. -/
def testRecipe (price : Bool) : Recipe :=
  { dose := 90, prewet := 5, soak := 4, volumeS := 40, volumeM := 80, volumeL := 160,
    priceS := if price then some 150 else none, priceM := if price then some 180 else none, priceL := none }

/-- Its configuration. -/
def testCfg : Cfg :=
  { version := 1, station := 3, bitRate := .b115200, budget := 100, cleanLimit := 2, leaseS := 30, holdLeaseS := 6,
    needHoldS := 20, soloAllowance := 50, baseUnits := 4, motorUnits := 10, heaterRated := 60, keepPercent := 20,
    grinderDuty := 80, encoderMode := .x4, countsPerDecigram := 4, flowPer10ml := 20, spinUp := 500, grindLoss := 300,
    flowLoss := 600, initialGrindRate := 90, initialFlowRate := 50, grindPowerWaitS := 30, heatWaitS := 120,
    extractionLimitS := 40, drainTimeS := 5, ejectWaitS := 30, motionLimitS := 5, tapWindowS := 20, retapWindowS := 10,
    promptTimeoutMin := 10, suspendLimitMin := 30, standbyMin := 30, stopBrew := .closed, stopDrain := .opened,
    stopRinse := .hold,
    phases := [⟨0, false, false, false⟩, ⟨60, true, false, false⟩, ⟨0, false, false, false⟩, ⟨100, true, false, false⟩,
               ⟨0, false, true, false⟩, ⟨0, false, true, false⟩, ⟨80, true, false, true⟩, ⟨0, false, false, false⟩,
               ⟨0, false, false, false⟩],
    rinseThreshold := 10, cleanThreshold := 200, descaleThresholdL := 100, drawerLimit := 20, watermark := 48,
    startRinse := true, freeVend := true, recipes := List.replicate 7 (testRecipe true) ++ [testRecipe false] }

/-- A station that serves, ONLINE, with base and KEEP confirmed and nothing in hand. -/
def s0 : State :=
  { State.reset with
    timeBase := 1000000,
    pins := { Pins.reset with brTop := true, drawerIn := true },
    lau := { Lau.reset with receiver := .hunt },
    stu := { Stu.reset with
      lineState := .online, effBudget := 100, effCleanLimit := 2, heatWish := .keep, lastClaimPosted := 1000000,
      lastRenewalDue := 1000000, posted := { base := true, grind := false, clean := false, heat := .keep },
      confirmed := { base := true, grind := false, clean := false, heat := .keep } },
    dcu := { Dcu.reset with granted := .keep, basePerm := true, regulator := .ready },
    brc := { Brc.reset with
      position := .top, drawerLimit := 20, drawerIn := true, regulator := .ready, heatWish := .keep,
      standbySince := some 1000000 },
    pyu := { Pyu.reset with reader := .gap 0 },
    plg := { Plg.reset with armed := true },
    plk := { Plk.reset with mode := .serving },
    cfl := { Cfl.reset with loaded := some testCfg, reading := .none, coldStart := false } }

/-- The closing reports have nothing to do, as a test. -/
def settled (s : State) : Bool :=
  s.oru.cupPending == s.cupPendingNow && s.heatWishNow == s.brc.heatWish && s.regulatorNow == s.brc.regulator
    && (s.clc.state != .waitSlot || s.startConditions) && s.stu.unmetSince.isSome == s.unmet
    && s.brc.standbySince.isSome == s.standbyConditions

/-- The test is sound. -/
theorem settled_sound {s : State} (h : settled s = true) : s.Settled := by
  simp only [settled, Bool.and_eq_true, Bool.or_eq_true, beq_iff_eq, bne_iff_ne, ne_eq] at h
  obtain ⟨⟨⟨⟨⟨h1, h2⟩, h3⟩, h4⟩, h5⟩, h6⟩ := h
  exact ⟨h1, h2, h3, fun c => h4.resolve_left fun n => n c, h5, h6⟩

set_option maxRecDepth 100000 in
theorem test_imagePassesItsTests : imageTest testImage = .ok := by decide +kernel
theorem test_imageGivesItsConfiguration : cfgOf (imageAt testImage) = testCfg := by decide +kernel
theorem test_theServingStateIsSettled : s0.Settled ∧ s0.working = true := ⟨settled_sound (by decide +kernel), by decide⟩
theorem test_frameCheckOfTheDigits :
    crc16 [0x31#8, 0x32#8, 0x33#8, 0x34#8, 0x35#8, 0x36#8, 0x37#8, 0x38#8, 0x39#8] = 0x29B1 := by decide +kernel


/-! ### Ill-formed commands, one for each check of WellFormed -/

theorem test_illFormedCommandsAreRefused :
    (Instr.configReadDone [0#8]).wf = false ∧ (Instr.configReadDone testImage).wf = true
    ∧ (Instr.claimDelivered 0 ⟨1, true, .keep, 12, 4, .none, 30⟩).wf = false
    ∧ (Instr.claimDelivered 16 ⟨1, true, .keep, 12, 4, .none, 30⟩).wf = false
    ∧ (Instr.claimDelivered 15 ⟨1, true, .keep, 12, 4, .none, 30⟩).wf = true
    ∧ (Instr.claimDelivered 1 ⟨256, true, .keep, 12, 4, .none, 30⟩).wf = false
    ∧ (Instr.claimDelivered 1 ⟨255, true, .keep, 256, 4, .none, 30⟩).wf = false
    ∧ (Instr.claimDelivered 1 ⟨255, true, .keep, 255, 256, .none, 30⟩).wf = false
    ∧ (Instr.claimDelivered 1 ⟨255, true, .keep, 255, 255, .none, 256⟩).wf = false
    ∧ (Instr.holdDelivered 0 ⟨1, true, 7#32, 6⟩).wf = false ∧ (Instr.holdDelivered 1 ⟨256, true, 7#32, 6⟩).wf = false
    ∧ (Instr.holdDelivered 1 ⟨255, true, 7#32, 256⟩).wf = false
    ∧ (Instr.joinDelivered 0 ⟨100, 2, 30⟩).wf = false ∧ (Instr.joinDelivered 1 ⟨256, 2, 30⟩).wf = false
    ∧ (Instr.joinDelivered 1 ⟨255, 256, 30⟩).wf = false ∧ (Instr.joinDelivered 1 ⟨255, 255, 256⟩).wf = false
    ∧ (Instr.disputeDelivered 0 ⟨1, 1, 1, .budget⟩).wf = false ∧ (Instr.disputeDelivered 1 ⟨256, 1, 1, .budget⟩).wf = false
    ∧ (Instr.disputeDelivered 1 ⟨1, 0, 1, .budget⟩).wf = false ∧ (Instr.disputeDelivered 1 ⟨1, 256, 1, .budget⟩).wf = false
    ∧ (Instr.disputeDelivered 1 ⟨1, 1, 256, .budget⟩).wf = false
    ∧ (Instr.needDelivered 0 ⟨1, 5, 20⟩).wf = false ∧ (Instr.needDelivered 1 ⟨256, 5, 20⟩).wf = false
    ∧ (Instr.needDelivered 1 ⟨1, 0, 20⟩).wf = false ∧ (Instr.needDelivered 1 ⟨1, 256, 20⟩).wf = false
    ∧ (Instr.needDelivered 1 ⟨1, 5, 256⟩).wf = false ∧ (Instr.sameStationFrame (.need ⟨1, 0, 20⟩)).wf = false
    ∧ (Instr.leaseExpiry 0).wf = false ∧ (Instr.leaseExpiry 16).wf = false ∧ (Instr.holdDeadlineExpiry 16).wf = false
    ∧ (Instr.tapDeadline 0).wf = false ∧ (Instr.tapDeadline 256).wf = false ∧ (Instr.tapDeadline 255).wf = true
    ∧ (Instr.readerPresent 1#32 65536 0).wf = false ∧ (Instr.readerPresent 1#32 65535 65536).wf = false
    ∧ (Instr.readerWritten 1#32 65536).wf = false ∧ (Instr.logAck 65536).wf = false ∧ (Instr.logAck 65535).wf = true := by
  decide +kernel

/-! ### Encodings of 12_formats.md -/

/-- A CLAIM with RAISE, KEEP of 12 units, 4 other units and clean state WAITING. -/
def testClaim : Frame := .claim ⟨5, true, .keep, 12, 4, .waiting, 30⟩

theorem test_framesAsTheFormatsGiveThem :
    frameBody testClaim = [5#8, 0x0B#8, 12#8, 4#8, 30#8]
    ∧ (frameBytes 2 testClaim).take 2 = [0x22#8, 5#8]
    ∧ frameBody (.hold ⟨9, true, 0x01020304#32, 6⟩) = [9#8, 1#8, 1#8, 2#8, 3#8, 4#8, 6#8]
    ∧ frameBody (.dispute ⟨7, 4, 200, .badge⟩) = [7#8, 4#8, 200#8, 3#8]
    ∧ frameOfBody .claim [5#8, 0x20#8, 12#8, 4#8, 30#8] = none ∧ frameOfBody .need [1#8, 0#8, 20#8] = none
    ∧ frameOfBody .hold [9#8, 3#8, 1#8, 2#8, 3#8, 4#8, 6#8] = none := by decide +kernel

theorem test_readerRecordsAsTheFormatsGiveThem :
    readerOutBytes (.signal true) = [0x62#8, 1#8, 0x63#8]
    ∧ readerRecordOf [(0x42#8, false), (0#8, false), (0#8, false), (0#8, false), (7#8, false), (0x49#8, false)]
        = some (.removed 7#32)
    ∧ readerRecordOf [(0x42#8, false), (0#8, false), (0#8, false), (0#8, false), (7#8, true), (0x49#8, false)] = none
    ∧ readerRecordOf [(0x42#8, false), (0#8, false), (0#8, false), (0#8, false), (7#8, false), (0x4A#8, false)] = none := by
  decide +kernel

/-- What is left of an answer. -/
def after (o : Out) : State :=
  match o with
  | .next t => t
  | _ => State.reset

theorem test_aFrameOfAnotherStationIsHeard :
    (after (feed (frameRows 2 testClaim) (s0.onLau fun l => { l with receiver := .sync true }))).entry 2
      = { ShareEntry.absent with
          live := true, leaseDeadline := 1030000, lastSeq := 5, heat := .keep, heatUnits := 12, otherUnits := 4, clean := .waiting } := by
  decide +kernel

theorem test_aWholePurchaseStarts :
    let s1 := after (exec (.order 0#8 1#8 3#8 1#8) s0)
    let s2 := after (exec (.readerPresent 77#32 200 9) s1)
    s1.oru.queue.map Order.price = [150] ∧ s1.plk.reply.map Reply.body = some [1#8, 1#8, 0#8, 150#8]
    ∧ s2.pyu.payment.map Payment.newBalance = some 50 ∧ s2.plg.reserve = 3 ∧ s2.oru.queue.map Order.paying = [true]
    ∧ s2.lau.queue.map TxSlot.offer = [.holdTake 77#32 1] := by decide +kernel

theorem test_refusalsComeInTurn :
    (after (exec (.order 7#8 1#8 3#8 1#8) s0)).plk.reply.map Reply.result = some .badRecipe
    ∧ (after (exec (.order 0#8 3#8 3#8 1#8) s0)).plk.reply.map Reply.result = some .badSize
    ∧ (after (exec (.order 0#8 1#8 6#8 1#8) s0)).plk.reply.map Reply.result = some .badStrength
    ∧ (after (exec (.order 0#8 1#8 5#8 3#8) s0)).plk.reply.map Reply.result = some .badRequest
    ∧ (after (exec (.cancel 1#8) s0)).plk.reply.map Reply.result = some .noSuchOrder
    ∧ (after (exec .cleanCancel s0)).plk.reply.map Reply.result = some .noCycle := by decide +kernel

theorem test_aFreeOrderRunsItsCup :
    let s1 := after (exec (.order 0#8 1#8 3#8 2#8) s0)
    s1.oru.queue.map Order.state = [.running] ∧ s1.brc.unit = .cup ∧ s1.cupRun.map CupRun.state = some .grind
    ∧ s1.grc.state = .waitPower ∧ s1.stu.grindWish = true ∧ s1.stu.heatWish = .full
    ∧ s1.lau.queue.map TxSlot.offer = [.claim true] := by decide +kernel

set_option maxRecDepth 100000 in
theorem test_fromPowerOnToServing :
    let s1 := after (exec (.configReadDone testImage) State.reset)
    s1.plk.mode = .serving ∧ s1.stu.lineState = .joining ∧ s1.brc.pucks = 1 ∧ s1.clc.due.rinse = true
    ∧ s1.lau.queue.map TxSlot.offer = [.join, .claim true] := by
  decide +kernel

/-! ### Small states -/

def halted : State := s0.onPlk fun p => { p with mode := .halted }
def service : State := s0.onPlk fun p => { p with mode := .service }
def starting : State := s0.onPlk fun p => { p with mode := .start }
/-- The receiver in a state. -/
def rx (r : Receiver) : State := s0.onLau fun l => { l with receiver := r }
/-- One slot in the transmit queue, the idle timer far past its gap. -/
def slot (t : TxSlot) : State := s0.onLau fun l => { l with queue := [t], idleTimer := 300 }
def sentSlot (o : Offer) (attempts : Nat) : TxSlot :=
  { offer := o, attempts := attempts, again := none, sent := some { seq := 5, frame := testClaim } }
/-- An order record. -/
def order1 (st : OrderState) (paying : Bool) : Order :=
  { number := 1, recipe := 0, size := 1, strength := 3, badgePay := true, state := st, admitted := 1000000,
    tapDeadline := some 1000000, windowExpired := false, paying := paying, badge := none, price := 150, debitSeq := none, grind := none }
def ordered (o : Order) : State :=
  (s0.onOru fun u => { u with queue := [o], nextNumber := 2, cupPending := o.state != .waitPay }).onBrc fun b =>
    { b with standbySince := none }
/-- A cup run of order 1. -/
def run1 (st : RunState) (abort : Option Reason) (d : Option Nat) : CupRun :=
  { order := 1, recipe := 0, size := 1, strength := 3, state := st, grounds := false, grind := none, grindOver := false,
    extraction := none, pending := none, abort := abort, cleanOut := false, stop := .notMade, waiting := st == .eject, deadline := d }
def cup (st : RunState) (abort : Option Reason) (d : Option Nat) : State :=
  let h : HeatLevel := if st = .drain ∨ st = .eject ∨ abort.isSome then .keep else .full
  ((ordered (order1 .running false)).onBrc fun b => { b with unit := .cup, run := some (run1 st abort d), heatWish := h }).onStu
    fun u => { u with heatWish := h, unmetSince := if h = .full then some 0 else none }
/-- A payment for order 1. -/
def pay1 (st : PayState) (h : HoldStatus) : Payment :=
  { state := st, tag := 1, badge := 77#32, order := some (1, 150), recipe := some 0, refundUsed := none, deferred := false,
    oldBalance := 200, expectedSeq := 9, newBalance := 50, hold := h, holdSeq := some 3, taken := true, lastTake := 1000, refreshBase := 1000,
    deferredSettle := false, joinRefresh := false, lapsed := false, deadline := some 1000000 }
def paying (st : PayState) (h : HoldStatus) : State :=
  ((ordered (order1 .waitPay true)).onPyu fun u => { u with payment := some (pay1 st h), tag := 1 }).onPlg fun p => { p with reserve := 3 }
/-- An entry of another station. -/
def peer (n : Nat) (s : State) : State :=
  setEntry n { ShareEntry.absent with
    live := true, leaseDeadline := 1000000, heat := .keep, heatUnits := 12, otherUnits := 4,
    held := some { badge := 77#32, seq := 1, deadline := 1000000 } } s
/-- A cleaning cycle in hand. -/
def cleaning (st : CycleState) (k : CleanKind) (n : Nat) (held : Bool) : State :=
  (s0.onClc fun u => { u with
    state := st, cycle := some { kind := k, step := n, unitHeld := held, stretch := false, deadline := some 1000000, resuming := false } }).onBrc
    fun b => { b with standbySince := none }

/-- EveryCommandAnswersNext, MoneyLawIsKept, InterlocksAreKept, LogGrowsAtItsTail: a command and a step that answer. -/
theorem witness_steps : exec .status s0 = .next (after (exec .status s0)) ∧ step s0 = .next (after (step s0)) := ⟨rfl, rfl⟩

/-! ### Small steps that cross several blocks -/

/-- The overheat latch while a cup run in B_GRIND waits for its grinder: the run fails with the latch's reason (R98, R108, R113). -/
theorem test_aLatchInBGrindFailsTheRunWithItsReason :
    let s := (cup .grind none none).onGrc fun g => { g with
      state := .waitPower, job := some { order := 1, recipe := 0, strength := 3, target := 360 }, waitDeadline := some 2000000 }
    let t := after (exec (.boilOvhtAssert true) s)
    t.oru.queue = [] ∧ t.grc.state = .idle
    ∧ t.plk.notices.map (fun n => (n.kind, n.code, n.detail1)) = [(.orderClosed, 3, 9), (.fault, 9, 0)] := by decide +kernel

/-- A stop event in B_EXTRACT records the extraction count before the run goes on to its clean-out (R111, R113). -/
theorem test_aStopEventRecordsTheExtraction :
    let s := ((cup .extract none none).onBrc fun b => { b with run := some { run1 .extract none none with grounds := true } }).onCnu
      fun u => { u with flow := { u.flow with count := 33, run := .counting, target := some 80, owner := some .brc } }
    let t := after (exec (.boilOvhtAssert true) s)
    t.cupRun.map (fun r => (r.cleanOut, r.extraction.isSome, r.abort)) = some (true, true, some .overheat) := by decide +kernel

/-- A FREE order that is admitted and closed in one action starts the standby timer anew (R120). -/
theorem test_anOrderRestartsTheStandbyTimer :
    let t := after (exec (.order 0#8 1#8 3#8 2#8) { s0 with timeBase := 1500000, pins := { s0.pins with lidOpen := true } })
    t.oru.queue = [] ∧ t.brc.standbySince = some 1500000 := by decide +kernel

/-- REMOVED of badge 77 as the reader sends it, after an idle of so many bit times. -/
def removedChars (idle : Nat) : List ReaderChar :=
  [⟨idle, 0x42#8, false⟩, ⟨0, 0#8, false⟩, ⟨2, 0#8, false⟩, ⟨0, 0#8, false⟩, ⟨29, 77#8, false⟩, ⟨0, 0x8F#8, false⟩]

/-- Characters are gathered into records by the idle between them (R140). -/
theorem test_charactersAreGatheredIntoRecords :
    let s := (paying .hold .settled).onPyu fun u => { u with reader := .gap 575990000 }
    (after (exec (.readerRecordBad (removedChars 300)) s)).pyu.payment = none
    ∧ (after (exec (.readerRecordBad (removedChars 20)) s)).pyu.payment.isSome = true
    ∧ s.readerRecords (removedChars 300 ++ removedChars 30) = List.replicate 2 ((removedChars 0).map fun c => (c.data, c.stopLow))
    ∧ s.readerRecords [⟨20, 0x42#8, false⟩] = []
    ∧ (after (exec (.readerRecordBad (removedChars 300)) s)).pyu.reader = .gap (s.units - 900) := by decide +kernel

/-- In GAP the idle counts from the load, where the last character ended before it (R140); the records that begin too early are
discarded, with a payment in flight or without one. -/
theorem test_theIdleCountsFromTheLoad :
    let s := s0.onPyu fun u => { u with reader := .gap (s0.units - 100) }
    s.readerRecords (removedChars 300) = [] ∧ (after (exec (.readerRecordBad (removedChars 300)) s)).pyu.reader = .gap (s0.units - 100)
    ∧ after (exec (.readerRecordBad (removedChars 20)) s0) = s0.onPyu fun u => { u with reader := .gap (s0.units - 900) } := by
  decide +kernel

/-- SL_DE is asserted in the break and for the start bit of the header, and not in the two high bits between (R1, R3). -/
theorem test_slDeFollowsTheBitsSent :
    let s := fun n => (slot (sentSlot .join 0)).onLau fun l => { l with txBit := n }
    (s 0).slDeLine = true ∧ (s 13).slDeLine = true ∧ (s 14).slDeLine = false ∧ (s 15).slDeLine = false ∧ (s 16).slDeLine = true
    ∧ s0.slDeLine = false ∧ (frameBits 2 testClaim).length = 16 + 11 * 9
    ∧ ((frameBits 2 testClaim).drop 16).take 11 = [false, false, true, false, false, false, true, false, false, true, true] := by
  decide +kernel

/-- A stop bit low leaves the line low, and neither the idle timer nor the guard count runs until it is high (R15, R17). -/
theorem test_aLowLineStopsTheIdleTimer :
    let s := (rx (.sync true)).onLau fun l => { l with guard := true }
    let low := after (exec (.rxCharacter 0#8 true true) s)
    let high := after (exec (.lineLowLevel false) low)
    low.pins.lineLow = true ∧ (after (step low)).lau.idleTimer = 0 ∧ (after (step low)).lau.guardCount = 0
    ∧ (after (step high)).lau.idleTimer = 1 ∧ (after (step high)).lau.guardCount = 1 := by decide +kernel

/-! ### The hypotheses of the statements, each met by a small state -/

/-- PowerOnAndTheResetLine, WarmResetHandsOverTheMoney. -/
theorem witness_resets :
    s0.pins.resetAsserted = false ∧ (s0.cfl.retainMark && false) = false ∧ s0.cfl.retainMark = true ∧ s0.plg.nextSeq < 65536
    ∧ (s0.onPins fun p => { p with resetAsserted := true }).pins.resetAsserted = true := by decide +kernel

/-- ConfigurationReadsLoadOrHalt, CompositionsCountTheirParts. -/
theorem witness_configurationReads :
    imageTest testImage = .ok ∧ imageTest (List.replicate 256 0#8) = .blank
    ∧ State.reset.cfl.reading = .first ∧ State.reset.pins.resetAsserted = false
    ∧ (after (exec (.configReadDone []) State.reset)).cfl.reading = .second
    ∧ (State.reset.onCfl fun c => { c with reading := .none }).cfl.reading = .none := by
  refine ⟨test_imagePassesItsTests, by decide +kernel, rfl, rfl, by decide +kernel, rfl⟩

/-- The invariants, as hypotheses of MoneyLawIsKept, InterlocksAreKept, DrawnUnitsStayWithinTheClaim, SafetyLinesHoldTheirChannels,
OrderNumbersSkipWhatIsHeld, PaymentsEndOrComplete. -/
theorem witness_invariants :
    (Ledger s0 ∧ Numbered s0 ∧ Interlocks s0 ∧ Inert s0) ∧ Numbered (paying .verify .settled) ∧ Inert State.reset
    ∧ Inert (State.reset.onCfl fun c => { c with reading := .second }) ∧ Ledger (paying .verify .settled) := by
  refine ⟨⟨⟨by decide, by decide, by decide, by decide, by decide⟩, ⟨by decide, by decide⟩,
    ⟨by decide, by decide, by decide, by decide, by decide⟩, ⟨by decide, by decide⟩⟩, ⟨by decide, by decide⟩, ⟨by decide, by decide⟩, ⟨by decide, by decide⟩, ⟨by decide, by decide, by decide, by decide, by decide⟩⟩

/-- UnheardRowsChangeNothing, IdleStepPassesTime. -/
theorem witness_unheardRows :
    s0.timerDue .guardEnd = some false ∧ s0.timerDue (.leaseExpiry 15) = some false ∧ s0.pending = []
    ∧ State.reset.working = false ∧ halted.working = false := by decide +kernel

/-- ReceiverFollowsTheLine. -/
theorem witness_receiver :
    (rx .hunt).lau.receiver = .hunt ∧ (rx .off).lau.receiver ≠ .hunt ∧ (rx (.sync false)).lau.receiver = .sync false
    ∧ (rx (.sync true)).lau.receiver = .sync true ∧ (rx (.sync true)).lau.receiver ≠ .sync false
    ∧ (rx (.sync false)).lau.receiver ≠ .sync true := by decide +kernel

/-- A CLAIM of station 2 with its length taken and four of its five body characters, or with the first check character. -/
def gathered (n : Nat) (check : List Byte) : RxFrame :=
  { kind := .claim, sender := 2, length := some 5, body := (frameBody testClaim).take n, check := check }

/-- CharactersBuildTheFrame, DamagedFramesMarkTheTableStale, CompleteFramesEndAtTheLastCheckCharacter, FramesAreReadAsTheyWereSent. -/
theorem witness_characters :
    s0.working = true ∧ settled (rx (.sync true)) = true
    ∧ frameKindOfCode ((0x60#8 : Byte).toNat / 16) = none ∧ (0x20#8 : Byte).toNat % 16 = 0
    ∧ frameKindOfCode ((0x5F#8 : Byte).toNat / 16) = some .dispute ∧ (0x5F#8 : Byte).toNat % 16 ≠ 0
    ∧ settled (rx (.body { gathered 0 [] with length := none })) = true ∧ (0#8 : Byte).toNat = 0 ∧ (20#8 : Byte).toNat ≤ 20
    ∧ 20 < (21#8 : Byte).toNat ∧ (gathered 3 []).body.length + 1 < 5 ∧ 5 ≤ (gathered 4 []).body.length + 1
    ∧ settled (rx (.check (gathered 5 []))) = true ∧ settled (rx .hunt) = true
    ∧ (rx (.check (gathered 5 [0#8]))).lau.receiver = .check (gathered 5 [0#8]) ∧ (gathered 5 [0#8]).check.length = 1
    ∧ rxFrame { gathered 5 [0#8] with check := [0#8, 0#8] } = none
    ∧ rxFrame { gathered 5 [] with check := (frameBytes 2 testClaim).drop 7 } = some testClaim
    ∧ testClaim.wf = true ∧ s0.conf.station ≠ 2 ∧ (gathered 5 []).sender ≠ s0.conf.station
    ∧ s0.transmitting = false ∧ (slot (sentSlot (.claim false) 0)).transmitting = true ∧ s0.lau.sameStationArmed = true
    ∧ (s0.onLau fun l => { l with sameStationArmed := false }).lau.sameStationArmed = false := by decide +kernel

/-- AccessFollowsTheGaps, AccessSendsOrWithdraws, AccessComposesTheClaim. -/
theorem witness_access :
    let at_ := fun o => slot (newSlot o)
    (at_ .join).dueAccess = true ∧ (at_ .join).winner = some 0 ∧ settled (at_ .join) = true
    ∧ (at_ (.claim true)).winner = some 0 ∧ (at_ (.claim true)).stu.stale = false ∧ (at_ (.claim true)).stu.pending = none
    ∧ (at_ (.claim true)).stu.lineState ≠ .isolated
    ∧ 1 ≤ ((at_ .need).onStu fun u => { u with effBudget := 20, grindWish := true }).unitsShort ∧ (at_ .need).unitsShort = 0
    ∧ ((at_ (.dispute 2 5 .badge)).onStu fun u => { u with stale := true }).stu.stale = true
    ∧ (let s := (at_ (.holdTake 77#32 1)).onPyu fun u => { u with payment := some (pay1 .hold .queued) }
       s.dueAccess = true ∧ s.peerHolds 77#32 0 = false ∧ (peer 2 s).peerHolds 77#32 0 = true ∧ (pay1 .hold .queued).tag = 1)
    ∧ ((at_ (.holdTake 77#32 1)).pyu.payment.any fun p => p.tag == 1) = false
    ∧ (s0.onLau fun l => { l with queue := [newSlot .join], idleTimer := 54 }).winner = some 0
    ∧ (s0.onLau fun l => { l with queue := [newSlot .join], idleTimer := 53 }).winner = none := by decide +kernel

/-- CollisionsRetryEightTimes, PostedFramesSettleTheirSlot, GuardEndSettlesTheRaise. -/
theorem witness_ownFrames :
    let sent := fun a => slot (sentSlot (.claim true) a)
    (sent 0).ownFrame.isSome = true ∧ (sent 6).eighthAttempt = false ∧ (sent 7).eighthAttempt = true ∧ settled (sent 7) = true
    ∧ s0.ownFrame = none ∧ (sentSlot .join 7).sent ≠ none ∧ (sentSlot .join 6).attempts < 7 ∧ 7 ≤ (sentSlot .join 7).attempts
    ∧ ((sent 0).onStu fun u => { u with lineState := .isolated }).stu.lineState = .isolated
    ∧ (s0.onLau fun l => { l with guard := true, guardCount := 160 }).dueGuardEnd = true
    ∧ (s0.onLau fun l => { l with guard := true, guardCount := 159 }).dueGuardEnd = false
    ∧ s0.pyu.payment = none ∧ (paying .hold .guarded).pyu.payment = some (pay1 .hold .guarded)
    ∧ (paying .hold .guarded).stu.stale = false ∧ ((paying .hold .guarded).onStu fun u => { u with stale := true }).stu.stale = true
    ∧ (pay1 .hold .settled).lapsed = false ∧ { pay1 .hold .settled with lapsed := true }.lapsed = true
    ∧ (paying .hold .settled).peerHolds 77#32 0 = false ∧ (peer 2 (paying .hold .settled)).peerHolds 77#32 0 = true := by
  decide +kernel

/-- A raise of this station that is out. -/
def raised : State := s0.onStu fun u => { u with
  pending := some { target := s0.wishes, seq := 5, guarded := true, heldRise := false, heldRetry := false } }

/-- A withdrawal tries again the wish that the raise had left out, and not the one that it carried (R37; log 9). -/
theorem test_aWithdrawalRetriesWhatTheRaiseLeftOut :
    let wish := raised.onStu fun u => { u with grindWish := true, cleanWish := true, pending := u.pending.map fun p =>
      { p with target := { p.target with grind := true } } }
    let carried := wish.onStu fun u => { u with cleanWish := false }
    let offers := fun (s : State) => (after (exec (.disputeDelivered 1 ⟨7, 3, 5, .budget⟩) s)).lau.queue.map TxSlot.offer
    offers wish = [.claim true] ∧ offers carried = [.claim false] := by decide +kernel

/-- ClaimUpdatesItsEntry, HoldUpdatesTheHeldBadge, JoinLowersTheLimits, NeedStepsTheStationDown, DisputeWithdrawsTheRaise. -/
theorem witness_deliveredFrames :
    s0.working = true ∧ (1 : Nat) ≠ s0.conf.station ∧ (15 : Nat) ≠ s0.conf.station ∧ settled s0 = true
    ∧ ((peer 1 s0).entry 1).held.map HeldBadge.badge = some 77#32 ∧ (s0.entry 15).held.map HeldBadge.badge ≠ some 77#32
    ∧ s0.pyu.payment = none ∧ s0.oru.cupPending = false ∧ s0.stu.posted.heat ≠ .off ∧ s0.inStretch = false
    ∧ (ordered (order1 .ready false)).oru.cupPending = true ∧ settled (ordered (order1 .ready false)) = true
    ∧ (raised.stu.pending.any fun p => p.guarded && p.seq == 5) = true
    ∧ (raised.stu.pending.any fun p => p.guarded && p.seq == 6) = false ∧ settled raised = true
    ∧ (raised.pyu.payment.any fun p => p.hold == .guarded && p.holdSeq == some 6) = false := by decide +kernel

/-- DamagedFramesMarkTheTableStale: with a raise in GUARDED, and with a JOIN posted within a lease and none. -/
theorem witness_damagedFrames :
    let s := raised.onLau fun l => { l with receiver := .body (gathered 3 []) }
    let recent := s.onStu fun u => { u with lastJoinPosted := some 970001 }
    s.working = true ∧ s.stu.pending.any PendingRaise.guarded = true ∧ s.lau.receiver = .body (gathered 3 [])
    ∧ (after (exec .rxIdleTimeout s)).lau.queue.map TxSlot.offer = [.claim false, .join]
    ∧ (after (exec (.rxCharacter 1#8 true false) recent)).lau.queue.map TxSlot.offer = [.claim false]
    ∧ (after (exec (.rxCharacter 1#8 false true) recent)).stu.pending = none := by decide +kernel

/-- StopEventsAndPhaseSets: a stop event within the reporting of another, and a cup run that takes one. -/
theorem witness_stopEvents :
    (nextActs (.stopEvent .cancelled) [.brcHeat, .stopOver, .oruFaultSet] s0).1 = [.brcHeat, .stopOver, .stopEvent .cancelled, .oruFaultSet]
    ∧ (cup .grind none none).brc.unit = .cup ∧ (cup .grind none none).brc.run = some (run1 .grind none none)
    ∧ ((cup .grind none none).onBrc fun b => { b with run := some { run1 .grind none none with stop := .reporting } }).cupRun
        = some { run1 .grind none none with stop := .reporting }
    ∧ phaseSet .motion halted = halted ∧ halted.working = false := by decide +kernel

/-- A MOTION step of a CLEAN cycle, DOWN in hand. -/
def stroking : State := (cleaning .run .clean 6 true).onBrc fun b => { b with
  unit := .step, step := some { kind := .motion 3, strokesLeft := 3 }, position := .between,
  move := some { up := false, deadline := 1000000 } }

/-- A stop event and a step-down end the move of a step, and the CLC is told (R104, R186). -/
theorem test_aStopEndsTheMoveOfAStep :
    (perform (.brcStop .overheat) stroking).2 = [.clcMoveStopped]
    ∧ (perform .clcStepDown stroking).2 = [.cnuStop .flow, .clcMoveStopped, .brcStepEnd, .stuCleanWish false]
    ∧ (perform .clcStepDown stroking).1.clc.state = .suspended
    ∧ (perform (.brcStop .overheat) (stroking.onBrc fun b => { b with move := none })).2 = [] := by decide +kernel

/-- The last awaited entry clears the stale mark when it is heard and not when it expires (R43). -/
theorem test_theLastAwaitedEntryMustBeHeard :
    let awaiting := (peer 15 s0).onStu fun u => { u with stale := true, awaited := [15] }
    (heardAwaited 15 awaiting).1.stu.stale = false
    ∧ (leaseExpire 15 awaiting).1.stu.stale = true ∧ (leaseExpire 15 awaiting).1.stu.awaited = [] := by decide +kernel

/-- A reload reads the drawer and keeps the puck count (R205, R121). -/
theorem test_aReloadReadsTheDrawer :
    let s := s0.onBrc fun b => { b with drawerIn := false, pucks := 7 }
    (loadBrewer false s).brc.drawerIn = true ∧ (loadBrewer false s).brc.pucks = 7 := by decide +kernel

/-- ShareTimersAct, RenewalsTestForIsolation. -/
theorem witness_shareTimers :
    (peer 1 s0).dueLease 1 = true ∧ (peer 15 s0).dueLease 15 = true ∧ (peer 15 s0).dueHoldDeadline 15 = true
    ∧ ((peer 15 s0).entry 15).held = some { badge := 77#32, seq := 1, deadline := 1000000 }
    ∧ (let wish := s0.onStu fun u => { u with grindWish := true, deniedAt := some 999000 }
       wish.dueRetry = true ∧ settled wish = true
       ∧ (wish.onStu fun u => { u with deniedAt := some 999001 }).dueRetry = false
       ∧ (let held := wish.onStu fun u => { u with pending := raised.stu.pending }
          held.dueRetry = true ∧ settled held = true ∧ held.stu.pending.isSome = true
          ∧ (after (exec .retryTimer held)).dueRetry = false))
    ∧ (let need := (ordered (order1 .ready false)).onStu fun u => { u with grindWish := true, effBudget := 20, unmetSince := some 998000 }
       need.dueNeed = true ∧ settled need = true)
    ∧ (s0.onStu fun u => { u with stale := true, staleClearTime := 1000000 }).dueStaleClear = true
    ∧ (s0.onStu fun u => { u with stepDown := some 1000000 }).dueStepDownEnd = true
    ∧ (let due := s0.onStu fun u => { u with lastClaimPosted := 970000, lastRenewalDue := 970000 }
       due.dueRenewal = true ∧ settled due = true ∧ due.stu.lastClaimPosted + due.conf.leaseS * 1000 ≤ due.timeBase)
    ∧ (let due := s0.onStu fun u => { u with lastClaimPosted := 970001, lastRenewalDue := 970001 }
       due.dueRenewal = true ∧ due.timeBase < due.stu.lastClaimPosted + due.conf.leaseS * 1000) := by decide +kernel

/-- ServiceDriveActsOnOneChannel. -/
theorem witness_serviceDrive :
    service.pins.resetAsserted = false ∧ settled service = false
    ∧ settled (service.onBrc fun b => { b with standbySince := none }) = true ∧ service.plk.mode = .service
    ∧ suits 1 100 = true ∧ suits 1 101 = false ∧ suits 4 2 = true ∧ suits 4 3 = false ∧ suits 7 1 = true ∧ suits 7 2 = false
    ∧ service.grinderBarred = false ∧ (service.onPins fun p => { p with lidOpen := true }).grinderBarred = true
    ∧ service.dcu.basePerm = true ∧ (service.onDcu fun d => { d with basePerm := false }).dcu.basePerm = false
    ∧ (service.onGrc fun g => { g with serviceWish := true }).grc.serviceWish = true ∧ service.grc.serviceWish = false
    ∧ service.brc.stuck = false ∧ service.brc.move = none ∧ service.brc.position ≠ .bottom
    ∧ (let driven := fun (s : State) (v : Byte) => ((after (exec (.serviceDrive 4#8 v) s)).brc.move.map Move.up,
         (after (exec (.serviceDrive 4#8 v) s)).plk.reply.map Reply.body)
       let idle := service.onBrc fun b => { b with standbySince := none }
       let down := idle.onBrc fun b => { b with position := .between, move := some { up := false, deadline := 1000000 } }
       idle.brc.unit = .idle ∧ driven idle 1#8 = (none, some [0#8]) ∧ driven idle 2#8 = (some false, some [2#8])
       ∧ driven down 2#8 = (some false, some [0#8]) ∧ driven down 1#8 = (none, some [0#8])
       ∧ driven (down.onPins fun p => { p with brTop := false }) 1#8 = (some true, some [1#8])
       ∧ driven (idle.onBrc fun b => { b with stuck := true }) 2#8 = (none, some [0#8])) := by decide +kernel

/-- The grind counter with a run. -/
def counting (n target : Nat) : State := s0.onCnu fun u => { u with
  grind := { u.grind with count := n, run := .counting, target := some target, owner := some .grc } }

/-- EncoderStepsMoveTheGrindCount, FlowEdgesAreCounted, RateRecordFollowsTheRun, RunsAreArmedAndWatched. -/
theorem witness_counting :
    encoderPlace s0.pins.encA s0.pins.encB = 0 ∧ encoderPlace true true = (0 + 2) % 4
    ∧ countingStep s0.conf.encoderMode 0 1 = true ∧ countingStep .x1 2 3 = false ∧ settled (counting 9 10) = true
    ∧ reachesTarget (counting 9 10).cnu.grind 10 = true ∧ reachesTarget (counting 8 10).cnu.grind 9 = false
    ∧ (s0.onCnu fun u => { u with grind := { u.grind with run := .reached } }).cnu.grind.run = .reached
    ∧ reachesTarget s0.cnu.flow 1 = false
    ∧ reachesTarget { s0.cnu.flow with run := .counting, count := 65534, target := some 65535 } 65535 = true
    ∧ (s0.counter .flow).latch = false ∧ (counting 9 10).cnu.grind.owner = some .grc
    ∧ armedRun (counting 9 10).cnu.grind = true ∧ armedRun s0.cnu.grind = false
    ∧ (s0.onCnu fun u => { u with grind := { u.grind with monitor := .spinUp 999500 } }).dueSpinUp .grind = true
    ∧ (s0.onCnu fun u => { u with flow := { u.flow with monitor := .watch 999400 } }).dueLoss .flow = true
    ∧ (s0.onCnu fun u => { u with grind := { u.grind with monitor := .watch 999700 } }).dueLoss .grind = true
    ∧ (s0.onCnu fun u => { u with grind := { u.grind with monitor := .watch 999701 } }).dueLoss .grind = false
    ∧ (s0.onCnu fun u => { u with flow := { u.flow with run := .timed, endTime := some 1000000 } }).dueTimedEnd .flow = true := by
  decide +kernel

/-- A grind for order 1 in a state. -/
def grinding (st : GrindState) : State :=
  (counting 3 360).onGrc fun g => { g with
    state := st, job := some { order := 1, recipe := 0, strength := 3, target := 360 }, waitDeadline := some 1000000 }

/-- GrindTargetFollowsTheDose, LidOverloadAndPowerWaitEndTheGrind, OverloadsSetTheGrinderFault. -/
theorem witness_grinding :
    (grinding .waitPower).dueGrindPower = true ∧ settled (grinding .waitPower) = true ∧ settled (grinding .run) = true
    ∧ (grinding .run).grc.job = some { order := 1, recipe := 0, strength := 3, target := 360 }
    ∧ (grinding .run).pins.lidOpen = false ∧ ((grinding .run).onPins fun p => { p with lidOpen := true, grOvld := true }).pins.grOvld = true
    ∧ (grinding .stop).grc.state = .stop ∧ (s0.onGrc fun g => { g with serviceWish := true }).grc.serviceWish = true
    ∧ (s0.onDcu fun d => { d with serviceGrind := true, grinder := true }).dcu.grinder = true
    ∧ armedRun (grinding .run).cnu.grind = true ∧ (grinding .run).grc.overloads = 0
    ∧ 1 ≤ ((grinding .run).onGrc fun g => { g with overloads := 1 }).grc.overloads
    ∧ ((grinding .stop).onGrc fun g => { g with held := some .cancelled }).grc.held = some .cancelled := by decide +kernel

/-- GrindTargetFollowsTheDose, OverloadsSetTheGrinderFault: the grant, the refusal, the end of the run, and a counter in REACHED. -/
theorem witness_grants :
    let wait := (grinding .waitPower).onDcu fun d => { d with grindPerm := true }
    let reached := (grinding .run).onCnu fun u => { u with grind := { u.grind with run := .reached } }
    let cap : Capture := { Capture.empty with count := 360, cause := .target }
    (perform .grcGranted wait).2 = [.cnuArm .grind .grc 360, .grcStartGrinder]
    ∧ (perform .grcStartGrinder wait).1.grc.state = .run ∧ (perform .grcStartGrinder (grinding .waitPower)).1.grc.state = .stop
    ∧ (perform (.runEnded .grc cap) reached).1.cnu.grind.run = .idle ∧ cap.cause = .target
    ∧ reached.cnu.grind.run ≠ .counting ∧ reached.cnu.grind.run ≠ .timed ∧ reached.grc.state = .run
    ∧ (failRun .cancelled false reached).1.cnu.grind = reached.cnu.grind := by decide +kernel

/-- CANCEL_GRIND and its answers by state (R100). -/
theorem test_aCancelledGrindIsAnswered :
    (cancelGrind 1 (grinding .waitPower)).2.getLast? = some (.brcGrindCancelAnswer .ok)
    ∧ (cancelGrind 1 (grinding .waitPower)).1.grc.state = .idle
    ∧ (cancelGrind 1 (grinding .run)).2.getLast? = some (.brcGrindCancelAnswer .ok) ∧ (cancelGrind 1 (grinding .run)).1.grc.state = .stop
    ∧ (cancelGrind 1 (grinding .stop)).2 = [.brcGrindCancelAnswer .ending]
    ∧ (cancelGrind 2 (grinding .run)).2 = [.brcGrindCancelAnswer .noRun]
    ∧ (cancelGrind 1 s0).2 = [.brcGrindCancelAnswer .noRun] := by decide +kernel

/-- A move in hand at its deadline. -/
def moving (up : Bool) : State := s0.onBrc fun b => { b with position := .between, move := some { up := up, deadline := 1000000 } }

/-- EndSwitchesEndTheMove, CupRunDeadlinesAct, DrawerChangesAreTaken, BoilerSwitchesDriveTheHeater. -/
theorem witness_brewing :
    (moving true).dueMotion = true ∧ (moving true).brc.stuck = false ∧ settled (moving true) = true
    ∧ ((moving true).onBrc fun b => { b with stuck := true }).dueMotion = true ∧ s0.brc.move = none
    ∧ (cup .prewet none (some 1000000)).dueRun .prewet = true ∧ (cup .soak none (some 1000000)).dueRun .soak = true
    ∧ (cup .heatWait none (some 1000000)).dueRun .heatWait = true ∧ (cup .extract none (some 1000000)).dueRun .extract = true
    ∧ (cup .drain none (some 1000000)).dueRun .drain = true ∧ (cup .eject none (some 1000000)).dueEject = true
    ∧ (cup .eject (some .cancelled) (some 1000000)).dueEject = true ∧ settled (cup .eject none none) = true
    ∧ settled (cup .soak none none) = true
    ∧ (cup .prewet none none).brc.unit = .cup ∧ (s0.onBrc fun b => { b with unit := .recovery }).brc.unit = .recovery
    ∧ (s0.onBrc fun b => { b with retained := true }).recoveryConditions = true
    ∧ (s0.onBrc fun b => { b with standbySince := some 0, standby := false }).dueStandby = false
    ∧ ({ s0 with timeBase := 2800000 } : State).dueStandby = true
    ∧ s0.pins.boilOvht = false ∧ s0.brc.overheat = false ∧ s0.unitStep ≠ some .heatWait := by decide +kernel

/-- The report of a run of order 1 that ended before its grind. -/
def ended (outcome : OrderOutcome) (puck : Puck) : RunEnd :=
  { order := 1, outcome := outcome, grind := none, extraction := none, puck := puck }

/-- The run end tells the counts and modes that the run recorded, and its puck (R116). -/
theorem test_theRunEndTellsItsCounts :
    let g : GrindReport := { order := 1, outcome := .done, count := 120, mode := .counted, target := 120 }
    let r := { run1 .eject none none with grounds := true, grind := some g, extraction := some (80, .timed), pending := some .short }
    (perform (.brcArrived true) ((cup .eject none none).onBrc fun b => { b with run := some r })).2
      = [.oruRunEnd { order := 1, outcome := .short, grind := some (120, .counted), extraction := some (80, .timed), puck := .dropped },
         .brcUnitIdle] := by decide +kernel

/-- CupRunDeadlinesAct: the states entered, the aborted run, and the order that its end closes. -/
theorem witness_cupRuns :
    let aborted := fun (grounds : Bool) => (cup .close (some .overheat) none).onBrc fun b => { b with
      run := some { run1 .close (some .overheat) none with grounds := grounds } }
    ((cup .home none none).oru.queue.find? fun o => o.state == .running) = some (order1 .running false)
    ∧ (perform (.oruRunEnd (ended .short .dropped)) (cup .drain none none)).1.clc.cupsSinceRinse = 1
    ∧ 0 < ((cup .home none none).recipe 0).prewet ∧ 0 < ((cup .home none none).recipe 0).soak
    ∧ ((cup .home none none).recipe 8).prewet = 0 ∧ ((cup .home none none).recipe 8).soak = 0
    ∧ (cup .soak none none).brc.regulator = .ready ∧ ((cup .soak none none).onBrc fun b => { b with regulator := .heating }).brc.regulator ≠ .ready
    ∧ (perform .brcProceed (aborted false)).2 = [.oruRunEnd (ended (.failed .overheat) .none), .brcUnitIdle]
    ∧ (perform .brcProceed (aborted true)).2 = [.brcEnter .close] ∧ (aborted true).dcu.basePerm = true ∧ (aborted true).brc.stuck = false
    ∧ (perform .brcProceed ((aborted true).onBrc fun b => { b with stuck := true })).1.brc.retained = true := by decide +kernel

/-- OrdersAreTestedAndAdmitted, OrderNumbersSkipWhatIsHeld, CancelAndExpiryCloseOrders. -/
theorem witness_orders :
    s0.pins.resetAsserted = false ∧ s0.plk.mode ≠ .halted ∧ 1 ≤ s0.oru.nextNumber ∧ s0.oru.nextNumber ≤ 255
    ∧ s0.oru.queue.length ≤ 4
    ∧ (s0.onOru fun u => { u with nextNumber := 255, queue := [{ order1 .ready false with number := 255 }] }).orderNumber = 1
    ∧ (ordered (order1 .ready false)).orderOf 1 = some (order1 .ready false) ∧ s0.orderOf 1 = none
    ∧ (cup .extract none none).cupRun = some (run1 .extract none none) ∧ settled (cup .drain none none) = true
    ∧ (cup .grind none none).orderOf 1 = some (order1 .running false)
    ∧ (ordered (order1 .waitPay true)).dueTap 1 = true ∧ settled (ordered (order1 .waitPay true)) = true
    ∧ (ordered (order1 .waitPay false)).dueTap 1 = true
    ∧ (perform .oruStart (cup .home none none)).2 = [] ∧ (s0.oru.queue.find? fun o => o.state == .ready) = none
    ∧ (perform .oruStart (ordered (order1 .ready false))).2 = [.brcEnter .home]
    ∧ (perform .oruStart ((ordered (order1 .ready false)).onDcu fun d => { d with basePerm := false })).1.brc.cupWaiting = true
    ∧ (perform .oruStart ((ordered (order1 .ready false)).onBrc fun b => { b with stuck := true })).1.brc.cupWaiting = false := by
  decide +kernel

/-- TapsStartPayments, ReaderRecordsMeetThePayment, PaymentsEndOrComplete, PaymentTimersAct. -/
theorem witness_payment :
    s0.pyu.payment = none ∧ s0.queueFull = false ∧ (s0.onLau fun l => { l with queue := List.replicate 7 (newSlot .need) }).queueFull = true
    ∧ settled s0 = true ∧ settled (paying .hold .queued) = true
    ∧ (paying .writing .settled).pyu.payment = some (pay1 .writing .settled) ∧ (paying .verify .settled).plg.nextSeq < 65536
    ∧ (paying .writing .settled).duePayment .writing = true ∧ (paying .hold .settled).duePayment .hold = true
    ∧ (paying .verify .settled).duePayment .verify = true ∧ (paying .hold .settled).dueRefresh = true
    ∧ (paying .hold .settled).dueLapse = true
    ∧ (s0.onPyu fun u => { u with sendQueue := [.signal true], sendFreeAt := s0.units }).dueReaderSend = true
    ∧ (9 : Nat) = (pay1 .verify .settled).expectedSeq ∧ (10 : Nat) = ((pay1 .verify .settled).expectedSeq + 1) % 65536
    ∧ (0 : Nat) = (65535 + 1) % 65536 ∧ (peer 2 (paying .verify .settled)).peerHolds 77#32 0 = true
    ∧ (paying .verify .settled).peerHolds 77#32 0 = false
    ∧ (((paying .hold .settled).orderOf 1).all fun o => !o.windowExpired) = true
    ∧ (let s := (paying .hold .settled).onOru fun u => { u with queue := u.queue.map fun o => { o with windowExpired := true } }
       (s.orderOf 1).map Order.windowExpired = some true ∧ (s.orderOf 1).map Order.state = some .waitPay
       ∧ (s.orderOf 1).map Order.debitSeq = some none
       ∧ (after (exec (.readerRemoved 77#32) s)).oru.queue = [])
    ∧ (((paying .hold .settled).onOru fun u => { u with queue := [] }).orderOf 1) = none
    ∧ (paying .hold .settled).pyu.reader = .gap 0 ∧ State.reset.pyu.reader = .off := by decide +kernel

/-- TapsStartPayments: every branch of a tap's tests is reached. -/
theorem witness_taps :
    let tapped := fun (s : State) (balance : Nat) => (after (exec (.readerPresent 77#32 balance 9) s)).plk.notices.map Notice.code
    let owed := (ordered (order1 .waitPay false)).onPyu fun u => { u with
      refunds := [{ badge := 77#32, amount := 65000, created := 0, inUse := false }] }
    tapped s0 100 = [] ∧ tapped (peer 2 (ordered (order1 .waitPay false))) 200 = [1]
    ∧ tapped ((ordered (order1 .waitPay false)).onPlg fun p => { p with reserve := 62 }) 200 = [2]
    ∧ tapped (ordered (order1 .waitPay false)) 149 = [3] ∧ tapped (ordered (order1 .waitPay false)) 150 = []
    ∧ tapped (s0.onPyu fun u => { u with refunds := [{ badge := 77#32, amount := 65000, created := 0, inUse := false }] }) 536 = [4]
    ∧ tapped owed 100 = [] ∧ (after (exec (.readerPresent 77#32 700 9) owed)).pyu.payment.map Payment.deferred = some true := by
  decide +kernel

/-- LogIsReadAndAcknowledged, CleaningTimersAct, CleaningCountersAndSteps, CleaningRequestsAct. -/
theorem witness_logAndCleaning :
    s0.plg.log = [] ∧ (appendEntry .debit 77#32 150 (some 1) (some 0) none none false s0).plg.log.length = 1
    ∧ (let due := s0.onClc fun u => { u with due := { u.due with rinse := true } }
       due.dueCycle = true ∧ due.nextKind = some .rinse ∧ settled due = true)
    ∧ (cleaning .run .rinse 2 true).dueStep = true ∧ isFlush (cleaning .run .rinse 2 true).runningKind = true
    ∧ (cleaning .run .rinse 1 true).runningKind = some .heatWait ∧ isTimed (cleaning .run .rinse 3 true).runningKind = true
    ∧ (cleaning .prompt .clean 1 true).dueStep = true ∧ settled (cleaning .run .rinse 2 true) = true
    ∧ ((s0.onClc fun u => { u with state := .suspended, resume := some { kind := .clean, step := 3, time := 0 } }).onBrc
        fun b => { b with standbySince := none }).dueSuspend = false
    ∧ ({ s0 with timeBase := 1800000, clc := { s0.clc with state := .suspended, resume := some { kind := .clean, step := 3, time := 0 } } }
        : State).dueSuspend = true
    ∧ (cleaning .run .clean 8 false).clc.state = .run ∧ (cleaning .run .descale 11 false).heldKind = some .descale
    ∧ (cleaning .waitSlot .rinse 1 false).clc.state = .waitSlot
    ∧ (cupMade (s0.onClc fun u => { u with cupsSinceRinse := 9, cupsSinceClean := 199 })).plk.notices.map Notice.code = [1, 2]
    ∧ starting.plk.mode = .start ∧ CleanKind.rinse.code = (1#8 : Byte).toNat ∧ 3 < (4#8 : Byte).toNat := by decide +kernel

/-- CleaningCountersAndSteps: a request for a step that is granted, one that aborts, and ones that give way or wait. -/
theorem witness_stepRequests :
    let slot := fun (s : State) => s.onStu fun u => { u with confirmed := { u.confirmed with clean := true } }
    let asks := fun (s : State) => (perform .clcRequest s).1
    let cup := fun (s : State) => (slot s).onBrc fun b => { b with unit := .cup }
    (asks (slot (cleaning .run .clean 3 false))).brc.unit = .step
    ∧ (asks (slot (cleaning .run .clean 3 false))).clc.rinseRequired = true
    ∧ (asks (slot (cleaning .run .clean 1 false))).clc.state = .prompt
    ∧ (asks (cleaning .run .rinse 1 false)).clc.state = .idle
    ∧ (asks (cup (cleaning .run .rinse 2 false))).clc.state = .suspended
    ∧ (asks (cup (cleaning .run .clean 5 false))).clc.state = .run ∧ (asks (cup (cleaning .run .clean 5 false))).brc.stepWaiting = true
    ∧ (asks ((slot (cleaning .run .rinse 2 false)).onDcu fun d => { d with basePerm := false })).brc.stepWaiting = true := by
  decide +kernel

/-- RequestsAreAdmittedByMode, PanelReadsAreAnswered, ServiceModeIsEnteredLeftAndReset, PanelTransfersAreJudged. -/
theorem witness_panel :
    panelRequest .partId = some (15, []) ∧ panelRequest (.logAck 65535) = some (5, [255#8, 255#8])
    ∧ s0.pins.resetAsserted = false ∧ halted.plk.mode = .halted ∧ starting.plk.mode = .start ∧ s0.plk.mode = .serving
    ∧ checkedRequest [15#8, 0#8, 0xF1#8] = true ∧ checkedRequest [15#8, 0#8, 0xF2#8] = false
    ∧ checkedRequest [16#8, 0#8, 0xF0#8] = true ∧ requestBodyLength 16 ≠ some 0
    ∧ requestMessage 7 [1#8] = [7#8, 1#8, 1#8, 0xF7#8] ∧ s0.hasRunning = false ∧ s0.stepRunning = false
    ∧ (cup .home none none).hasRunning = true ∧ (cleaning .run .rinse 1 true).stepRunning = true := by decide +kernel

theorem test_theStatusBodyHasItsLength : s0.statusBody.length = 531 ∧ (paying .verify .settled).statusBody.length = 531 := by
  decide +kernel

end Sys2Proof.Tests
end

section
/-! ## Compositions and their counting (R28)

Each lemma says once what one function of the share table's counting gives; `compositionsCountTheirParts` puts them together. -/

namespace Sys2Proof.Proofs

open Sys2Proof Sys2Proof.Machine

/-! ### Units of a composition -/

/-- The numerator grows by 99 before the division: a round up to whole units. -/
theorem heatUnits_keep_rounds_up (c : Cfg) :
    c.heaterRated * c.keepPercent ≤ 100 * heatUnits c .keep
    ∧ 100 * heatUnits c .keep < c.heaterRated * c.keepPercent + 100 := by
  have hkeep : heatUnits c .keep = (c.heaterRated * c.keepPercent + 99) / 100 := rfl
  omega

theorem heatUnits_half_rounds_up (c : Cfg) :
    c.heaterRated ≤ 2 * heatUnits c .half ∧ 2 * heatUnits c .half < c.heaterRated + 2 := by
  have hhalf : heatUnits c .half = (c.heaterRated + 1) / 2 := rfl
  omega

/-- The clean slot counts no units, so adding or leaving it keeps the total. -/
theorem compTotal_clean (c : Cfg) (k : Composition) (clean : Bool) :
    compTotal c { k with clean := clean } = compTotal c k := rfl

/-! ### Raising one composition over another -/

theorem raisesOver_iff (a b : Composition) :
    raisesOver a b = true ↔ (a.base = true ∧ b.base = false) ∨ (a.grind = true ∧ b.grind = false)
      ∨ (a.clean = true ∧ b.clean = false) ∨ heatCode b.heat < heatCode a.heat := by
  simp [raisesOver, or_assoc]

/-- A composition with grind and one with heat each raise over the other: one part goes up while another goes down. -/
theorem raisesOver_both_ways : ∃ a b : Composition, raisesOver a b = true ∧ raisesOver b a = true :=
  ⟨{ Composition.empty with grind := true }, { Composition.empty with heat := .full }, by decide, by decide⟩

/-! ### The clean count -/

theorem cleanCount_eq (s : State) :
    s.cleanCount = (s.peers.filter fun p => p.2.clean == .cleaning).length + (if s.stu.posted.clean then 1 else 0) := rfl

/-! ### The ranges that a loaded image keeps (R204) -/

theorem within_iff (lo hi n : Nat) : within lo hi n = true ↔ lo ≤ n ∧ n ≤ hi := by
  simp [within]

/-- An image that passes the tests passes every range test: the search for a failed one comes last and finds none. -/
theorem imageChecks_hold_of_ok {image : List Byte} (hok : imageTest image = .ok) :
    ∀ check ∈ imageChecks (imageAt image), check.2 = true := by
  simp only [imageTest] at hok
  split at hok
  case isTrue => contradiction
  split at hok
  case isTrue => contradiction
  split at hok
  case isTrue => contradiction
  cases hfind : (imageChecks (imageAt image)).find? fun check => !check.2 with
  | some failed => simp [hfind] at hok
  | none => simpa using hfind

/-- A byte of an image that passes the tests lies in the range that its row of the checks gives. -/
theorem imageAt_range_of_ok {image : List Byte} {field lo hi : Nat} (hok : imageTest image = .ok)
    (hrow : (field, within lo hi (imageAt image field)) ∈ imageChecks (imageAt image)) :
    lo ≤ imageAt image field ∧ imageAt image field ≤ hi :=
  (within_iff _ _ _).mp (imageChecks_hold_of_ok hok _ hrow)

theorem cfgOf_baseUnits_range {image : List Byte} (hok : imageTest image = .ok) :
    1 ≤ (cfgOf (imageAt image)).baseUnits ∧ (cfgOf (imageAt image)).baseUnits ≤ 8 :=
  imageAt_range_of_ok (field := 9) hok (by simp [imageChecks])

theorem cfgOf_motorUnits_range {image : List Byte} (hok : imageTest image = .ok) :
    2 ≤ (cfgOf (imageAt image)).motorUnits ∧ (cfgOf (imageAt image)).motorUnits ≤ 16 :=
  imageAt_range_of_ok (field := 10) hok (by simp [imageChecks])

/-- Settles O19: each part's units, the raising relation, the clean count and the configured ranges, one lemma each. -/
theorem compositionsCountTheirParts : Obligations.CompositionsCountTheirParts := by
  refine ⟨fun c k => ⟨rfl, rfl, compTotal_clean c k _, rfl, heatUnits_keep_rounds_up c, heatUnits_half_rounds_up c, rfl⟩,
    raisesOver_iff, raisesOver_both_ways, cleanCount_eq, fun image hok => ?_⟩
  obtain ⟨hbaseLow, hbaseHigh⟩ := cfgOf_baseUnits_range hok
  exact ⟨hbaseLow, hbaseHigh, cfgOf_motorUnits_range hok⟩

end Sys2Proof.Proofs
end

section
/-! ## The end of a run and the rate record (R77, R78, R85)

The rules about a counter's update come first; what a run's end reports and what the rate update does rest on them. -/

namespace Sys2Proof.Proofs

open Sys2Proof Sys2Proof.Machine

/-! ### The update of one counter -/

@[simp] theorem counter_onCounter (c : CounterId) (f : Counter → Counter) (s : State) :
    (onCounter c f s).counter c = f (s.counter c) := by
  cases c <;> rfl

/-- An update sees its function only at the counter that the state holds. -/
theorem onCounter_congr {c : CounterId} {f g : Counter → Counter} {s : State} (heq : f (s.counter c) = g (s.counter c)) :
    onCounter c f s = onCounter c g s := by
  cases c with
  | grind => exact congrArg (fun k => s.onCnu fun u => { u with grind := k }) heq
  | flow => exact congrArg (fun k => s.onCnu fun u => { u with flow := k }) heq

@[simp] theorem onCounter_id (c : CounterId) (s : State) : onCounter c (fun k => k) s = s := by
  cases c <;> rfl

theorem onCounter_eq_self {c : CounterId} {f : Counter → Counter} {s : State} (hkeep : f (s.counter c) = s.counter c) :
    onCounter c f s = s :=
  (onCounter_congr hkeep).trans (onCounter_id c s)

/-! ### The end of a run -/

theorem counter_endRun (c : CounterId) (cause : EndCause) (s : State) :
    (endRun c cause s).1.counter c = endedCounter (s.counter c) (c == .grind && cause == .target)
      (captureOf (s.counter c) cause s.timeBase) :=
  counter_onCounter c _ s

theorem rateUpdate_mem_endRun (c : CounterId) (cause : EndCause) (s : State) :
    .rateUpdate c (captureOf (s.counter c) cause s.timeBase) ∈ (endRun c cause s).2 := by
  simp [endRun]

/-- The owner of the run is told first (R78). -/
theorem head?_endRun_of_owner {c : CounterId} {s : State} {o : Owner} (cause : EndCause) (howner : (s.counter c).owner = some o) :
    (endRun c cause s).2.head? = some (.runEnded o (captureOf (s.counter c) cause s.timeBase)) := by
  simp [endRun, howner]

/-! ### The rate record -/

/-- The fallback latch bars every update of the rate record (R83). -/
theorem rateUpdate_of_latched {c : CounterId} {u : State} (cap : Capture) (hlatch : (u.counter c).latch = true) :
    rateUpdate c cap u = u := by
  unfold rateUpdate
  split
  case isTrue => exact onCounter_eq_self (if_pos hlatch)
  case isFalse => rfl

/-- Without the latch the capture alone decides whether the record is updated (R85). -/
theorem rateUpdate_of_unlatched {c : CounterId} {u : State} (cap : Capture) (hlatch : (u.counter c).latch = false) :
    rateUpdate c cap u =
      if cap.cause = .target ∧ cap.mode = .counted ∧ 1000 ≤ cap.duration
        then onCounter c (fun k => { k with rate := max 1 ((3 * k.rate + cap.count * 100 / cap.duration) / 4) }) u
        else u := by
  unfold rateUpdate
  split
  case isTrue => exact onCounter_congr (if_neg (by simp [hlatch]))
  case isFalse => rfl

/-- Settles O32: the run's end by the rules of `endRun`, the rate update by the fallback latch. -/
theorem rateRecordFollowsTheRun : Obligations.RateRecordFollowsTheRun := by
  intro s c cause k cap
  have hended := counter_endRun c cause s
  refine ⟨?capture, ?previous, rateUpdate_mem_endRun c cause s, fun o howner => head?_endRun_of_owner cause howner,
    fun u hlatch => ?unlatched, fun u hlatch => ?latched⟩
  case capture => exact congrArg Counter.capture hended
  case previous => exact congrArg Counter.previous hended
  case unlatched => exact congrArg (·, []) (rateUpdate_of_unlatched cap hlatch)
  case latched => exact congrArg (·, []) (rateUpdate_of_latched cap hlatch)

end Sys2Proof.Proofs
end

section
/-! ## Order numbers (R123)

The cycle 1 to 255 comes first, then the search for a free number along it, then what an ORDER request does with the number found. -/

namespace Sys2Proof.Proofs

open Sys2Proof Sys2Proof.Machine

/-! ### The cycle of order numbers -/

theorem numberAfter_range (n : Nat) : 1 ≤ numberAfter n ∧ numberAfter n ≤ 255 := by
  unfold numberAfter
  split <;> omega

theorem numberAfter_of_le {n : Nat} (hle : n ≤ 255) : numberAfter n = if n = 255 then 1 else n + 1 := by
  have hlast : 255 ≤ n ↔ n = 255 := by omega
  simp only [numberAfter, hlast]

/-! ### The search for a free number -/

theorem freeNumber_of_held {held : Nat → Bool} {n : Nat} (fuel : Nat) (hheld : held n = true) :
    freeNumber held (fuel + 1) n = freeNumber held fuel (numberAfter n) :=
  if_pos hheld

theorem freeNumber_of_free {held : Nat → Bool} {n : Nat} (fuel : Nat) (hfree : held n = false) : freeNumber held (fuel + 1) n = n :=
  if_neg (by simp [hfree])

theorem freeNumber_range (held : Nat → Bool) (fuel : Nat) {n : Nat} (hn : 1 ≤ n ∧ n ≤ 255) :
    1 ≤ freeNumber held fuel n ∧ freeNumber held fuel n ≤ 255 := by
  induction fuel generalizing n with
  | zero => exact hn
  | succ fuel ih =>
    cases hheld : held n with
    | true => rw [freeNumber_of_held fuel hheld]; exact ih (numberAfter_range n)
    | false => rwa [freeNumber_of_free fuel hheld]

theorem repeat_after_first {α : Type} (f : α → α) (k : Nat) (a : α) : Nat.repeat f k (f a) = Nat.repeat f (k + 1) a := by
  induction k with
  | zero => rfl
  | succ k ih => exact congrArg f ih

/-- The search stops some steps further along the cycle, and every number that it passes is held. The cycle is any function that agrees
with `numberAfter` up to 255. -/
theorem freeNumber_reached {held : Nat → Bool} {after : Nat → Nat} (hafter : ∀ n ≤ 255, numberAfter n = after n) (fuel : Nat) {n : Nat}
    (hn : n ≤ 255) :
    ∃ k, freeNumber held fuel n = Nat.repeat after k n ∧ ∀ j, j < k → held (Nat.repeat after j n) = true := by
  induction fuel generalizing n with
  | zero => exact ⟨0, rfl, fun j hj => absurd hj (Nat.not_lt_zero j)⟩
  | succ fuel ih =>
    cases hheld : held n with
    | false => exact ⟨0, freeNumber_of_free fuel hheld, fun j hj => absurd hj (Nat.not_lt_zero j)⟩
    | true =>
      obtain ⟨k, hend, hpassed⟩ := ih (numberAfter_range n).2
      rw [hafter n hn, repeat_after_first] at hend
      refine ⟨k + 1, by rw [freeNumber_of_held fuel hheld, hafter n hn, hend], fun j hj => ?_⟩
      cases j with
      | zero => exact hheld
      | succ j =>
        rw [← repeat_after_first, ← hafter n hn]
        exact hpassed j (Nat.lt_of_succ_lt_succ hj)

/-! ### The numbers held -/

theorem mem_heldNumbers_iff (s : State) (n : Nat) :
    n ∈ s.heldNumbers ↔ n ∈ s.oru.queue.map Order.number ∨ ∃ p, s.pyu.payment = some p ∧ p.order.map Prod.fst = some n := by
  rw [State.heldNumbers, List.mem_append]
  cases s.pyu.payment with
  | none => simp
  | some p => simp

theorem numberHeld_iff (s : State) (n : Nat) : s.numberHeld n = true ↔ n ∈ s.heldNumbers := by
  rw [numberHeld_eq, List.contains_iff_mem]

/-- Four records and the payment in flight hold at most five numbers. -/
theorem heldNumbers_length_le {s : State} (hfew : s.oru.queue.length ≤ 4) : s.heldNumbers.length ≤ 5 := by
  have hpayment : ((s.pyu.payment.bind Payment.order).map Prod.fst).toList.length ≤ 1 := Option.length_toList_le
  simp only [State.heldNumbers, List.length_append, List.length_map]
  omega

theorem orderNumber_free {s : State} (hfew : s.oru.queue.length ≤ 4) : s.orderNumber ∉ s.heldNumbers := by
  rw [State.orderNumber, numberHeld_eq]
  exact freeNumber_free s.heldNumbers (heldNumbers_length_le hfew) s.oru.nextNumber

theorem orderNumber_range {s : State} (hnum : Numbered s) : 1 ≤ s.orderNumber ∧ s.orderNumber ≤ 255 :=
  freeNumber_range s.numberHeld 6 hnum.order

/-! ### The answer to an ORDER request -/

theorem request_of_admitted {s : State} (kind bodyLength : Nat) (owner : State → Answer) (hline : s.pins.resetAsserted = false)
    (hmode : s.plk.mode ≠ .halted) :
    request kind bodyLength .unlessHalted owner s = placeReply (byteOf kind) (bodyLength + 3) (owner s) := by
  have hadmitted : modeRefusal .unlessHalted s.plk.mode = none := by
    cases hm : s.plk.mode with
    | halted => exact absurd hm hmode
    | start | serving | service => rfl
  simp [request, hline, hadmitted]

theorem exec_order_of_admitted {s : State} {recipe size strength payMode : Byte} (hline : s.pins.resetAsserted = false)
    (hmode : s.plk.mode ≠ .halted) :
    exec (.order recipe size strength payMode) s
      = .next (placeReply 6#8 7 (answerOrder recipe.toNat size.toNat strength.toNat payMode.toNat s)) :=
  congrArg Host.Outcome.next (request_of_admitted 6 4 _ hline hmode)

theorem ite_ne_of_both {α : Type} {c : Prop} [Decidable c] {a b x : α} (ha : a ≠ x) (hb : b ≠ x) : (if c then a else b) ≠ x := by
  split
  case isTrue => exact ha
  case isFalse => exact hb

/-- Every test of R124 that fails names a refusal. -/
theorem orderTest_ne_ok {s : State} {recipe size strength : Nat} {free : Bool} :
    s.orderTest recipe size strength free ≠ some .ok := by
  unfold State.orderTest
  repeat' apply ite_ne_of_both
  all_goals exact nofun

/-- An ORDER request is refused with nothing changed, or its order is admitted under the number found. -/
theorem answerOrder_cases (recipe size strength payMode : Nat) (s : State) :
    (∃ r, r ≠ .ok ∧ answerOrder recipe size strength payMode s = refuse r s)
    ∨ ∃ o body, o.number = s.orderNumber
        ∧ answerOrder recipe size strength payMode s = answerOk (react (admitOrder o s)) (field1 s.orderNumber ++ body) := by
  unfold answerOrder
  split
  case isTrue => exact .inl ⟨.badRequest, by decide, rfl⟩
  case isFalse =>
    simp only
    split
    next r htest => exact .inl ⟨r, fun hok => orderTest_ne_ok (hok ▸ htest), rfl⟩
    next => exact .inr ⟨s.newOrder recipe size strength (payMode == 2), _, rfl, by rw [List.append_assoc]; rfl⟩

theorem nextNumber_react (e : Eff) : (react e).oru.nextNumber = e.1.oru.nextNumber :=
  congrArg Quiet.nextNumber (quiet_react e)

/-- The next order number follows the number of the order admitted. -/
theorem nextNumber_admitOrder (o : Order) (s : State) : (admitOrder o s).1.oru.nextNumber = numberAfter o.number :=
  congrArg Quiet.nextNumber quiet_clearStandby

theorem field1_of_le {n : Nat} (hn : n ≤ 255) : field1 n = [byteOf n] := by
  simp [field1, Nat.lt_succ_of_le hn]

/-- A refused ORDER consumes no number; an admitted one is answered with its number, and the next order number follows it. -/
theorem exec_order_nextNumber {s : State} (recipe size strength payMode : Byte) (hnum : Numbered s)
    (hline : s.pins.resetAsserted = false) (hmode : s.plk.mode ≠ .halted) :
    ∃ t : State, exec (.order recipe size strength payMode) s = .next t
      ∧ ((∃ r, t.plk.reply = some r ∧ r.result = .ok ∧ t.oru.nextNumber = numberAfter s.orderNumber
            ∧ r.body.head? = some (byteOf s.orderNumber))
        ∨ (∃ r, t.plk.reply = some r ∧ r.result ≠ .ok ∧ t.oru.nextNumber = s.oru.nextNumber)) := by
  refine ⟨_, exec_order_of_admitted hline hmode, ?_⟩
  rcases answerOrder_cases recipe.toNat size.toNat strength.toNat payMode.toNat s with
    ⟨refusal, hrefusal, hanswer⟩ | ⟨o, body, hnumber, hanswer⟩ <;> rw [hanswer]
  case inl => exact .inr ⟨_, rfl, hrefusal, rfl⟩
  case inr =>
    refine .inl ⟨_, rfl, rfl, ?next, ?body⟩
    case next => rw [← hnumber, ← nextNumber_admitOrder o s]; exact nextNumber_react _
    case body => rw [field1_of_le (orderNumber_range hnum).2]; rfl

/-! ### Resets -/

/-- Both resets give the ORU its reset values, the warm one among what it does to every block (R203). -/
theorem oru_resetAssert {s : State} (hline : s.pins.resetAsserted = false) (intact : Bool) : (resetAssert intact s).oru = Oru.reset := by
  unfold resetAssert
  rw [if_neg (by simp [hline])]
  split
  case isTrue => rfl
  case isFalse => rfl

/-- Settles O43: the search along the cycle, the two answers to ORDER, the resets and the tail of the log, one lemma each. -/
theorem orderNumbersSkipWhatIsHeld : Obligations.OrderNumbersSkipWhatIsHeld := by
  refine ⟨?number, fun _ => exec_order_nextNumber,
    rfl, fun _ hline intact => ⟨_, rfl, congrArg Oru.nextNumber (oru_resetAssert hline intact)⟩,
    fun kind badge amount order recipe mode credit unlisted s => ?epoch⟩
  case number =>
    intro s hnum hled held after
    have hheld : ∀ n, s.numberHeld n = true → held n := fun n h => (mem_heldNumbers_iff s n).mp ((numberHeld_iff s n).mp h)
    obtain ⟨hlow, hhigh⟩ := orderNumber_range hnum
    obtain ⟨k, hend, hpassed⟩ := freeNumber_reached (held := s.numberHeld) (after := after) (fun _ hle => numberAfter_of_le hle) 6
      hnum.order.2
    exact ⟨mt (mem_heldNumbers_iff s _).mpr (orderNumber_free hled.few), hlow, hhigh,
      ⟨k, hend, fun j hj => hheld _ (hpassed j hj)⟩, numberAfter_of_le hhigh⟩
  case epoch => rw [appendEntry_log, List.getLast?_concat]; rfl

end Sys2Proof.Proofs
end

section
/-! ## What a command comes to, and the rows that are not listened to (R22, R69, R140, R206; log 2)

`taken` names the state that a command leads to. A timer acts by `onDue`, an event of the line, the reader or the flow meter by
`whenWorking`, a change of an input line by an effect that is its level alone while the blocks are inert. -/

namespace Sys2Proof.Proofs

open Sys2Proof Sys2Proof.Machine

variable {s : State}

/-- The state that a command leads to. -/
def taken (c : Instr) (s : State) : State :=
  match exec c s with
  | .next t => t
  | _ => s

/-- No command is refused and none faults (R62: the latches are state). -/
theorem exec_taken (c : Instr) (s : State) : exec c s = .next (taken c s) := by cases c <;> rfl

theorem taken_of_exec {c : Instr} {t : State} (h : exec c s = .next t) : taken c s = t := by rw [taken, h]

/-! ### Timers -/

theorem onDue_of_due {d : Bool} (h : d = true) (f : State → Eff) : onDue d f s = react (f s) := by simp [onDue, h]

theorem onDue_of_not_due {d : Bool} (h : d = false) (f : State → Eff) : onDue d f s = s := by simp [onDue, h]

/-- A timer falls due only while the blocks work. -/
theorem working_of_due {c : Instr} (h : s.timerDue c = some true) : s.working = true := by
  cases c
  all_goals simp only [State.timerDue, reduceCtorEq, Option.some.injEq] at h
  all_goals
    simp only [State.dueAccess, State.dueGuardEnd, State.dueLease, State.dueHoldDeadline, State.dueRetry, State.dueRenewal,
      State.dueStaleClear, State.dueNeed, State.dueStepDownEnd, State.dueSpinUp, State.dueLoss, State.dueTimedEnd,
      State.dueGrindPower, State.dueMotion, State.dueRun, State.dueEject, State.dueStandby, State.dueTap, State.dueReaderSend,
      State.duePayment, State.dueRefresh, State.dueLapse, State.dueCycle, State.dueStep, State.dueSuspend,
      State.recoveryConditions, Bool.and_eq_true] at h
    simp [h]

/-- A timer whose moment has not come changes nothing (log 2). -/
theorem exec_of_not_due {c : Instr} (h : s.timerDue c = some false) : exec c s = .next s := by
  cases c
  all_goals simp only [State.timerDue, reduceCtorEq, Option.some.injEq] at h
  all_goals exact congrArg Host.Outcome.next (onDue_of_not_due h _)

/-! ### Inputs of an inert station -/

theorem whenWorking_of_working (h : s.working = true) (f : State → Eff) : whenWorking f s = react (f s) := by
  simp [whenWorking, h]

theorem whenWorking_of_inert (h : s.working = false) (f : State → Eff) : whenWorking f s = s := by simp [whenWorking, h]

section Inert

variable (h : s.working = false)
include h

theorem encoderChange_of_inert (a b : Bool) :
    encoderChange a b s = (s.onPins fun p => { p with encA := a, encB := b }, []) := by simp [encoderChange, h]

theorem lidChange_of_inert (b : Bool) : lidChange b s = (s.onPins fun p => { p with lidOpen := b }, []) := by
  simp [lidChange, h]

theorem overloadChange_of_inert (b : Bool) : overloadChange b s = (s.onPins fun p => { p with grOvld := b }, []) := by
  simp [overloadChange, h]

theorem switchChange_of_inert (a b : Bool) :
    switchChange a b s = (s.onPins fun p => { p with brTop := a, brBot := b }, []) := by simp [switchChange, h]

theorem drawerChange_of_inert (b : Bool) : drawerChange b s = (s.onPins fun p => { p with drawerIn := b }, []) := by
  simp [drawerChange, h]

theorem boilerChange_of_inert (b : Bool) : boilerChange b s = (s.onPins fun p => { p with boilCold := b }, []) := by
  simp [boilerChange, h]

theorem overheatChange_of_inert (b : Bool) : overheatChange b s = (s.onPins fun p => { p with boilOvht := b }, []) := by
  simp [overheatChange, h]

/-- An effect that is a level alone leaves that level alone: the reports that end an action are not made (log 32). -/
theorem next_react_of_inert {e : Eff} {f : Pins → Pins} (he : e = (s.onPins f, [])) :
    (Host.Outcome.next (react e) : Out) = .next (s.onPins f) := by
  rw [he]; exact congrArg _ (react_inert (s := s.onPins f) h)

end Inert

/-- Settles O3: a timer by `exec_of_not_due`; an event that is not listened to by `whenWorking_of_inert`; a level by the lemma of its
line. -/
theorem unheardRowsChangeNothing : Obligations.UnheardRowsChangeNothing := by
  refine fun s => ⟨fun c => exec_of_not_due, fun h => ?_⟩
  have unheard (f : State → Eff) : (Host.Outcome.next (whenWorking f s) : Out) = .next s :=
    congrArg _ (whenWorking_of_inert h f)
  refine ⟨fun d f e => ?character, unheard _, fun n f => ?delivered, fun f => unheard _, unheard _, unheard _, unheard _,
    fun _ _ _ => unheard _, fun _ => unheard _, fun _ _ => unheard _, fun _ _ => unheard _, fun l => ?records,
    fun a b => next_react_of_inert h (encoderChange_of_inert h a b),
    fun b => next_react_of_inert h (lidChange_of_inert h b),
    fun b => next_react_of_inert h (overloadChange_of_inert h b),
    fun a b => next_react_of_inert h (switchChange_of_inert h a b),
    fun b => next_react_of_inert h (drawerChange_of_inert h b),
    fun b => next_react_of_inert h (boilerChange_of_inert h b),
    fun b => next_react_of_inert h (overheatChange_of_inert h b)⟩
  case character => simp [exec, execRxCharacter, h, setLine, State.onPins]
  case delivered => cases f <;> exact unheard _
  case records => simp [exec, execReaderRecordBad, h]

end Sys2Proof.Proofs
end

section
/-! ## The interlocks and the inert states, command by command (R56 to R60, R64, R65, R138, R198, R202, R203)

A step is a command or the passing of time. What an effect leaves of the channels is in the lemmas `locks_…`, what it leaves of the
mode, the configuration and RESET_N in the lemmas `bare_…`. -/

namespace Sys2Proof.Proofs

open Sys2Proof Sys2Proof.Machine

variable {s : State}

/-! ### Effects of the timers and of the input lines -/

theorem bare_grindPowerEnd : (grindPowerEnd s).1.bare = s.bare := by
  unfold grindPowerEnd; split <;> simp

theorem bare_moveTimeout : (moveTimeout s).1.bare = s.bare := by
  unfold moveTimeout; split <;> simp

theorem bare_timeEnd (c : CounterId) : (timeEnd c s).1.bare = s.bare := by simp [timeEnd]

theorem bare_extractionEnd : (extractionEnd s).1.bare = s.bare := by simp [extractionEnd]

theorem bare_recoveryStart : (recoveryStart s).1.bare = s.bare := by simp [recoveryStart]

theorem bare_lossTrip (c : CounterId) : (lossTrip c s).bare = s.bare := by
  unfold lossTrip; split <;> simp

theorem locks_spinUpDone (c : CounterId) (h : Interlocks s) : Interlocks (spinUpDone c s) := by
  cases c <;> exact Interlocks.of_drive (s := s) rfl h

/-- The trip of a monitor leaves no run in REACHED that was not there before. -/
theorem locks_lossTrip (c : CounterId) (h : Interlocks s) : Interlocks (lossTrip c s) := by
  unfold lossTrip
  split
  · exact locks_onCounter _ _ (fun _ => rfl) h
  · refine locks_postNotice _ _ _ _ _ (Interlocks.of_drive (s := s) ?_ h)
    cases c with
    | grind =>
      have hrun : ((trippedCounter s.timeBase s.cnu.grind).run == .reached) = (s.cnu.grind.run == .reached) := by
        unfold trippedCounter
        split
        next hcounting => rw [hcounting]; rfl
        next => rfl
      simp [State.drive, onCounter, State.onCnu, hrun]
    | flow => rfl

theorem bare_lidChange (b : Bool) : (lidChange b s).1.bare = s.bare := by
  simp only [lidChange, grinderLineAsserted]
  repeat' split
  all_goals simp

theorem bare_overloadChange (b : Bool) : (overloadChange b s).1.bare = s.bare := by
  simp only [overloadChange, grinderLineAsserted]
  repeat' split
  all_goals simp

theorem bare_switchChange (a b : Bool) : (switchChange a b s).1.bare = s.bare := by
  simp only [switchChange]
  repeat' split
  all_goals simp

theorem bare_drawerChange (b : Bool) : (drawerChange b s).1.bare = s.bare := by
  simp only [drawerChange]
  repeat' split
  all_goals simp

theorem bare_boilerChange (b : Bool) : (boilerChange b s).1.bare = s.bare := by
  simp only [boilerChange]
  split <;> simp

theorem bare_overheatChange (b : Bool) : (overheatChange b s).1.bare = s.bare := by
  simp only [overheatChange, overheatLatch]
  split <;> simp

/-! ### The level of the line and the reader's characters -/

/-- The level of SL_RX and the line access unit are read by no interlock. -/
theorem safe_setLine_onLau (low : Bool) (f : Lau → Lau) (h : Safe s) : Safe ((setLine low s).onLau f) :=
  ⟨locks_onLau f (locks_pins_free _ (fun _ => rfl) (fun _ => rfl) (fun _ => rfl) h.1), inert_of_eq (s := s) rfl rfl rfl h.2⟩

theorem safe_setLine (low : Bool) (h : Safe s) : Safe (setLine low s) := safe_setLine_onLau low id h

theorem safe_lineBreak (h : Safe s) : Safe (lineBreak s) := by
  unfold lineBreak
  split
  · exact safe_setLine_onLau _ _ h
  · exact h

theorem safe_syncOpen (h : Safe s) : Safe (syncOpen s) := by
  unfold syncOpen
  split
  · exact safe_setLine_onLau _ _ h
  · exact h

theorem safe_syncClose (h : Safe s) : Safe (syncClose s) := by
  refine ⟨locks_syncClose h.1, ?_⟩
  unfold syncClose
  split
  · exact inert_of_eq (s := s) rfl rfl rfl h.2
  · exact h.2

theorem safe_lineLow (low : Bool) (h : Safe s) : Safe (lineLow low s) := by
  simp only [lineLow]
  split
  · exact safe_setLine_onLau low _ h
  · exact safe_setLine low h
  all_goals exact safe_setLine_onLau low _ h

theorem safe_readerHeard (h : Safe s) : Safe (readerHeard s) :=
  ⟨locks_onPyu _ h.1, inert_of_eq (s := s) rfl rfl rfl h.2⟩

theorem safe_takeReaderRecords (l : List ReaderRecord) (h : Safe s) : Safe (takeReaderRecords l s) := by
  induction l generalizing s with
  | nil => exact h
  | cons r rest ih => exact ih (safe_whenWorking _ (locks_takeReaderRecord r) (bare_takeReaderRecord r) h)

/-! ### Every command -/

/-- Every command keeps the interlocks and the inertness. -/
theorem safe_taken (c : Instr) (h : Safe s) : Safe (taken c s) := by
  obtain ⟨lLogAck, lStatus, lNoticeRead, lLogRead, lOrder, lCancel, lCleanRequest, lCleanCancel, lPromptDone, lEnter, lLeave, lReset,
    lDrive, lPartId⟩ := locks_requests h.1
  obtain ⟨iLogAck, iStatus, iNoticeRead, iLogRead, iOrder, iCancel, iCleanRequest, iCleanCancel, iPromptDone, iEnter, iLeave, iReset,
    iDrive, iPartId⟩ := inert_requests h.2
  have timer (f : State → Eff) (c : Instr) {d : Bool} (hd : s.timerDue c = some d) (hl : Interlocks s → Interlocks (f s).1)
      (hb : (f s).1.bare = s.bare) : Safe (onDue d f s) :=
    safe_onDue d f (fun e => working_of_due (c := c) (by rw [hd, e])) hl hb h
  cases c with
  | supplyUp b => exact safe_powerOn b
  | resetNAssert b => exact safe_resetAssert b h
  | resetNNegate => exact safe_resetNegate h
  | configReadDone image => exact safe_configRead image h
  | lineBreakDetected => exact safe_lineBreak h
  | syncBreakEnd => exact safe_syncOpen h
  | syncWindowClose => exact safe_syncClose h
  | lineLowLevel b => exact safe_lineLow b h
  | rxCharacter d f e =>
    show Safe (if s.working then whenWorking (rxCharacter d f e) s else setLine e s)
    split
    · exact safe_whenWorking _ (locks_rxCharacter d f e) (bare_rxCharacter d f e) h
    · exact safe_setLine e h
  | rxIdleTimeout => exact safe_whenWorking _ locks_rxIdle bare_rxIdle h
  | claimDelivered n b => exact safe_whenWorking _ (locks_deliver n _) (bare_deliver n _) h
  | holdDelivered n b => exact safe_whenWorking _ (locks_deliver n _) (bare_deliver n _) h
  | joinDelivered n b => exact safe_whenWorking _ (locks_deliver n _) (bare_deliver n _) h
  | disputeDelivered n b => exact safe_whenWorking _ (locks_deliver n _) (bare_deliver n _) h
  | needDelivered n b => exact safe_whenWorking _ (locks_deliver n _) (bare_deliver n _) h
  | sameStationFrame f => exact safe_whenWorking (fun s => (sameStation f s, [])) (locks_sameStation f) (bare_sameStation f) h
  | collision => exact safe_whenWorking _ locks_collision bare_collision h
  | framePosted => exact safe_whenWorking _ locks_framePosted bare_framePosted h
  | accessWon => exact timer _ .accessWon rfl locks_lauAccess bare_lauAccess
  | guardEnd => exact timer _ .guardEnd rfl locks_guardEnd bare_guardEnd
  | leaseExpiry n => exact timer _ (.leaseExpiry n) rfl (locks_leaseExpire n) (bare_leaseExpire n)
  | holdDeadlineExpiry n => exact timer _ (.holdDeadlineExpiry n) rfl (locks_holdExpire n) (bare_holdExpire n)
  | retryTimer => exact timer (fun s => (stuRetry s, [])) .retryTimer rfl locks_stuRetry bare_stuRetry
  | renewalDue => exact timer _ .renewalDue rfl locks_renewal bare_renewal
  | staleClearTime => exact timer _ .staleClearTime rfl locks_staleClear bare_staleClear
  | needUnmetTimer => exact timer (fun s => (offerFrame .need s, [])) .needUnmetTimer rfl (locks_offerFrame _) (bare_offerFrame _)
  | stepDownEnd => exact timer _ .stepDownEnd rfl locks_stuStepDownEnd bare_stuStepDownEnd
  | encoderStep a b =>
    exact safe_line (fun p => { p with encA := a, encB := b }) _ (fun hw => encoderChange_of_inert hw a b) (fun _ => rfl)
      (locks_encoderChange a b h.1) (bare_encoderChange a b) h
  | flowEdge => exact safe_whenWorking _ locks_flowRise bare_flowRise h
  | spinUpExpiry k => exact timer (fun s => (spinUpDone k s, [])) (.spinUpExpiry k) rfl (locks_spinUpDone k) (bare_onCounter k _)
  | lossTimeExpiry k => exact timer (fun s => (lossTrip k s, [])) (.lossTimeExpiry k) rfl (locks_lossTrip k) (bare_lossTrip k)
  | timedRunEnd k => exact timer _ (.timedRunEnd k) rfl (locks_timeEnd k) (bare_timeEnd k)
  | grindPowerTimeout => exact timer _ .grindPowerTimeout rfl locks_grindPowerEnd bare_grindPowerEnd
  | lidOpenAssert b =>
    exact safe_line (fun p => { p with lidOpen := b }) _ (fun hw => lidChange_of_inert hw b) (fun _ => rfl)
      (locks_lidChange b (still_of h.2) h.1) (bare_lidChange b) h
  | grOvldAssert b =>
    exact safe_line (fun p => { p with grOvld := b }) _ (fun hw => overloadChange_of_inert hw b) (fun _ => rfl)
      (locks_overloadChange b (still_of h.2) h.1) (bare_overloadChange b) h
  | brewerEndSwitch a b =>
    exact safe_line (fun p => { p with brTop := a, brBot := b }) _ (fun hw => switchChange_of_inert hw a b) (fun _ => rfl)
      (locks_switchChange a b h.1) (bare_switchChange a b) h
  | brewerMotionTimeout => exact timer _ .brewerMotionTimeout rfl locks_moveTimeout bare_moveTimeout
  | prewetLimitExpiry => exact timer _ .prewetLimitExpiry rfl (locks_disarm .flow) (bare_disarm .flow)
  | soakTimerExpiry => exact timer _ .soakTimerExpiry rfl (locks_brcEnter _) (bare_brcEnter _)
  | heatWaitTimeout => exact timer _ .heatWaitTimeout rfl (locks_brcAbort _) (bare_brcAbort _)
  | extractionDeadline => exact timer _ .extractionDeadline rfl locks_extractionEnd bare_extractionEnd
  | drainTimerExpiry => exact timer _ .drainTimerExpiry rfl (locks_brcEnter _) (bare_brcEnter _)
  | ejectTimeout => exact timer _ .ejectTimeout rfl (locks_endCupRun _) (bare_endCupRun _)
  | drawerInChange b =>
    exact safe_line (fun p => { p with drawerIn := b }) _ (fun hw => drawerChange_of_inert hw b) (fun _ => rfl)
      (locks_drawerChange b h.1) (bare_drawerChange b) h
  | recoveryEjectStart => exact timer _ .recoveryEjectStart rfl locks_recoveryStart bare_recoveryStart
  | boilColdChange b =>
    exact safe_line (fun p => { p with boilCold := b }) _ (fun hw => boilerChange_of_inert hw b) (fun _ => rfl)
      (locks_boilerChange b h.1) (bare_boilerChange b) h
  | boilOvhtAssert b =>
    exact safe_line (fun p => { p with boilOvht := b }) _ (fun hw => overheatChange_of_inert hw b) (fun _ => rfl)
      (locks_overheatChange b (still_of h.2) h.1) (bare_overheatChange b) h
  | standbyTimeout =>
    exact timer (fun s => (s.onBrc fun b => { b with standby := true }, [.brcHeat])) .standbyTimeout rfl
      (fun hl => Interlocks.of_drive (s := s) rfl hl) rfl
  | tapDeadline n => exact timer _ (.tapDeadline n) rfl (locks_tapExpiry n) (bare_tapExpiry n)
  | readerPresent b n q => exact safe_whenWorking _ (locks_readerPresent b n q) (bare_readerPresent b n q) h
  | readerRemoved b => exact safe_whenWorking _ (locks_readerRemoved b) (bare_readerRemoved b) h
  | readerWritten b n => exact safe_whenWorking _ (locks_readerWritten b n) (bare_readerWritten b n) h
  | readerWriteFailed b r => exact safe_whenWorking _ (locks_readerWriteFailed b r) (bare_readerWriteFailed b r) h
  | readerRecordBad l =>
    show Safe (if s.working then takeReaderRecords ((s.readerRecords l).filterMap readerRecordOf) (readerHeard s) else s)
    split
    · exact safe_takeReaderRecords _ (safe_readerHeard h)
    · exact h
  | readerSendStart => exact timer (fun s => (readerSend s, [])) .readerSendStart rfl locks_readerSend bare_readerSend
  | writeReplyTimeout => exact timer (fun s => (enterVerify s, [])) .writeReplyTimeout rfl locks_enterVerify bare_enterVerify
  | holdWaitTimeout => exact timer _ .holdWaitTimeout rfl locks_holdWaitEnd bare_holdWaitEnd
  | holdRefreshDue => exact timer (fun s => (refreshDue s, [])) .holdRefreshDue rfl locks_refreshDue bare_refreshDue
  | holdLapse =>
    exact timer (fun s => (setPayment (fun p => { p with lapsed := true }) s, [])) .holdLapse rfl
      (locks_setPayment _) (bare_setPayment _)
  | retapDeadline => exact timer _ .retapDeadline rfl locks_retapEnd bare_retapEnd
  | cycleStart => exact timer _ .cycleStart rfl locks_clcStart bare_clcStart
  | flushDeadline => exact timer _ .flushDeadline rfl (locks_disarm .flow) (bare_disarm .flow)
  | cleanHeatWaitTimeout => exact timer _ .cleanHeatWaitTimeout rfl (locks_clcAbort _ _) (bare_clcAbort _ _)
  | stepTimerExpiry => exact timer _ .stepTimerExpiry rfl locks_clcStepEnd bare_clcStepEnd
  | promptTimeout => exact timer _ .promptTimeout rfl (locks_clcAbort _ _) (bare_clcAbort _ _)
  | suspendLimitExpiry => exact timer _ .suspendLimitExpiry rfl locks_clcDrop bare_clcDrop
  | order r z t m => exact ⟨lOrder _ _ _ _, iOrder _ _ _ _⟩
  | cancel n => exact ⟨lCancel _, iCancel _⟩
  | logRead => exact ⟨lLogRead, iLogRead⟩
  | logAck n => exact ⟨lLogAck n, iLogAck n⟩
  | promptDone => exact ⟨lPromptDone, iPromptDone⟩
  | cleanRequest k => exact ⟨lCleanRequest _, iCleanRequest _⟩
  | cleanCancel => exact ⟨lCleanCancel, iCleanCancel⟩
  | status => exact ⟨lStatus, iStatus⟩
  | readReply n k m => exact ⟨locks_readReply n k m h.1, inert_readReply n k m h.2⟩
  | noticeRead => exact ⟨lNoticeRead, iNoticeRead⟩
  | serviceEnter => exact ⟨lEnter, iEnter⟩
  | serviceLeave => exact ⟨lLeave, iLeave⟩
  | serviceReset => exact ⟨lReset, iReset⟩
  | serviceDrive k v => exact ⟨lDrive _ _, iDrive _ _⟩
  | partId => exact ⟨lPartId, iPartId⟩
  | panelTransferInvalid l => exact ⟨locks_panel l h.1, inert_panel l h.2⟩

/-! ### The passing of time, and a step -/

theorem safe_onLau (f : Lau → Lau) (h : Safe s) : Safe (s.onLau f) := ⟨locks_onLau f h.1, inert_of_eq (s := s) rfl rfl rfl h.2⟩

/-- The duties that the lines take are read by no interlock, and no inert state speaks of them. -/
theorem safe_latchDuties (h : Safe s) : Safe (latchDuties s) :=
  ⟨Interlocks.of_drive (s := s) rfl h.1, h.2.parked, h.2.starting⟩

theorem safe_time (base sub : Nat) (h : Safe s) : Safe { s with timeBase := base, subMs := sub } :=
  ⟨Interlocks.of_drive (s := s) rfl h.1, inert_of_eq (s := s) rfl rfl rfl h.2⟩

theorem safe_tick (h : Safe s) : Safe (tick s) := by
  have hline : Safe (if s.working then tickLine s else s) := by
    split
    · exact safe_onLau _ h
    · exact h
  simp only [tick]
  split
  · exact safe_latchDuties (safe_time _ _ hline)
  · exact safe_time _ _ hline

theorem safe_pending (l : List Instr) (h : Safe s) : Safe { s with pending := l } :=
  ⟨Interlocks.of_drive (s := s) rfl h.1, inert_of_eq (s := s) rfl rfl rfl h.2⟩

theorem safe_step {t : State} (h : Safe s) (hstep : step s = .next t) : Safe t := by
  unfold step at hstep
  split at hstep
  case h_1 =>
    obtain rfl := Host.Outcome.next.inj hstep
    exact safe_pending _ (safe_tick h)
  case h_2 c rest _ => exact taken_of_exec hstep ▸ safe_taken c (safe_pending rest h)

/-- Settles O60: a step is a command, which `safe_taken` takes by its row, or the passing of time, which moves no channel. -/
theorem interlocksAreKept : Obligations.InterlocksAreKept :=
  fun _ _ hlocks hinert hstep => safe_step ⟨hlocks, hinert⟩ hstep

end Sys2Proof.Proofs
end

section
/-! ## The growth of the purchase log (R164, R167)

`Grew g p`: the log `p` is `g` lengthened at its tail, and its next sequence has stayed in its range. An append is the one operation
that moves either; every report and every command but LOG_ACK and a power-on is made of appends and of operations that leave the log
alone. -/

namespace Sys2Proof.Proofs

open Sys2Proof Sys2Proof.Machine

/-- The log has only been lengthened at its tail, and the next sequence has stayed within two bytes. -/
structure Grew (g p : Plg) : Prop where
  tail : ∃ new, p.log = g.log ++ new
  seq : g.nextSeq < 65536 → p.nextSeq < 65536

variable {g : Plg} {s t : State}

theorem Grew.refl (g : Plg) : Grew g g := ⟨⟨[], (List.append_nil _).symm⟩, id⟩

theorem Grew.of_eq (hlog : t.plg.log = s.plg.log) (hseq : t.plg.nextSeq = s.plg.nextSeq) (h : Grew g s.plg) : Grew g t.plg :=
  ⟨by rw [hlog]; exact h.tail, by rw [hseq]; exact h.seq⟩

theorem Grew.of_plg (e : t.plg = s.plg) (h : Grew g s.plg) : Grew g t.plg := by rw [e]; exact h

theorem Grew.of_till (e : t.till = s.till) (h : Grew g s.plg) : Grew g t.plg := Grew.of_plg (congrArg Prod.fst e) h

/-! ### Appends -/

theorem grew_placeEntry (k b a o r m c u) (h : Grew g s.plg) : Grew g (placeEntry k b a o r m c u s).plg := by
  obtain ⟨new, hnew⟩ := h.tail
  exact ⟨⟨new ++ _, by rw [placeEntry, onPlg_plg, hnew, List.append_assoc]⟩, fun _ => Nat.mod_lt _ (by decide)⟩

theorem grew_appendEntry (k b a o r m c u) (h : Grew g s.plg) : Grew g (appendEntry k b a o r m c u s).plg :=
  Grew.of_eq (s := placeEntry k b a o r m c u s) watermarkTest_log watermarkTest_nextSeq (grew_placeEntry k b a o r m c u h)

theorem grew_appendRefundDue (b a o) (h : Grew g s.plg) : Grew g (appendRefundDue b a o s).plg :=
  grew_appendEntry _ _ _ _ _ _ _ _ (s := listDue b a s) h

theorem grew_reserveDown (n : Nat) (h : Grew g s.plg) : Grew g (reserveDown n s).plg := Grew.of_eq (s := s) rfl rfl h

theorem grew_reserveUp (n : Nat) (h : Grew g s.plg) : Grew g (reserveUp n s).plg := Grew.of_eq (s := s) rfl rfl h

/-! ### Closes and payments (R134, R148, R154, R160) -/

theorem grew_pyuClose (o : Order) (d : Bool) (h : Grew g s.plg) : Grew g (pyuClose o d s).plg := by
  unfold pyuClose
  split
  · exact h
  · refine grew_reserveDown 1 ?_
    split
    · exact grew_appendEntry _ _ _ _ _ _ _ _ h
    · exact grew_appendRefundDue _ _ _ h

theorem grew_closeOrder (o : Order) (r : OrderOutcome) (h : Grew g s.plg) : Grew g (closeOrder o r s).1.plg := by
  have hclosed := grew_pyuClose (s := s.onOru fun u => { u with queue := u.queue.filter fun q => q.number != o.number }) o
    (r == .delivered) h
  simp only [closeOrder]
  split
  · exact Grew.of_till till_cupMade hclosed
  · exact hclosed

theorem grew_oruPaymentOver (n : Nat) (h : Grew g s.plg) : Grew g (oruPaymentOver n s).1.plg := by
  simp only [oruPaymentOver]
  repeat' split
  all_goals first | exact h | exact grew_closeOrder (s := setOrder n _ s) _ _ h

theorem grew_endUnpaid (c : PayCode) (h : Grew g s.plg) : Grew g (endUnpaid c s).1.plg := by
  have ended (p : Payment) (u : State) (hu : u.plg = s.plg) :
      Grew g ((reserveDown 3 (freeRefunds u)).onPyu fun v => { v with payment := none }).plg :=
    grew_reserveDown 3 (s := freeRefunds u) (Grew.of_plg hu h)
  cases hp : s.pyu.payment with
  | none => simp only [endUnpaid, hp]; exact h
  | some p =>
    simp only [endUnpaid, hp]
    split
    · refine grew_oruPaymentOver _ (ended p _ ?_)
      (repeat' split) <;> simp
    · refine ended p _ ?_
      (repeat' split) <;> simp

theorem grew_pyuTryWrite (h : Grew g s.plg) : Grew g (pyuTryWrite s).1.plg := by
  unfold pyuTryWrite
  repeat' split
  all_goals first | exact h | exact grew_endUnpaid _ h

theorem grew_completeAppends (p : Payment) (h : Grew g s.plg) : Grew g (completeAppends p s).plg := by
  simp only [completeAppends]
  cases p.refundUsed <;> cases p.order
  · exact h
  · exact grew_appendEntry _ _ _ _ _ _ _ _ h
  · exact grew_appendEntry _ _ _ _ _ _ _ _ h
  · exact grew_appendEntry _ _ _ _ _ _ _ _ (grew_appendEntry _ _ _ _ _ _ _ _ h)

theorem grew_completeTail (p o c) (h : Grew g s.plg) : Grew g (completeTail p o c s).plg := Grew.of_plg (completeTail_plg p o c) h

theorem grew_completePayment (h : Grew g s.plg) : Grew g (completePayment s).1.plg := by
  unfold completePayment
  split
  · exact h
  case h_2 p _ =>
    have happended := grew_completeAppends p h
    dsimp only
    split
    · exact grew_completeTail _ _ _ (grew_reserveDown 3 happended)
    · split
      · exact grew_completeTail _ _ _ (grew_reserveUp 1 (grew_reserveDown 3 happended))
      · exact grew_completeTail _ _ _ (grew_reserveDown 3 (grew_appendRefundDue _ _ _ happended))

theorem grew_retapEnd (h : Grew g s.plg) : Grew g (retapEnd s).1.plg := by
  unfold retapEnd
  split
  · exact h
  · exact grew_endUnpaid _ (grew_appendEntry _ _ _ _ _ _ _ _ h)

/-! ### Reports and actions -/

/-- Every report lengthens the log at its tail, if at all. -/
theorem grew_perform (a : Act) (s : State) (h : Grew g s.plg) : Grew g (perform a s).1.plg := by
  cases a
  case oruStart =>
    simp only [perform, oruStart]
    repeat' split
    all_goals exact h
  case oruGrindReady =>
    simp only [perform, oruGrindReady]
    repeat' split
    all_goals first | exact h | exact Grew.of_till (till_grindAccept _ _ _) h
  case oruGrindReport r => exact h
  case oruRunEnd r =>
    simp only [perform, oruRunEnd]
    repeat' split
    all_goals first | exact h | exact grew_closeOrder _ _ h
  case oruFaultSet =>
    simp only [perform, oruFaultSet]
    split
    · exact grew_closeOrder _ _ h
    · exact h
  case pyuGuardEnd =>
    simp only [perform, pyuGuardEnd, offerRefresh, offerTake]
    repeat' split
    all_goals first | exact h | exact Grew.of_plg (s := setPayment _ s) (offerFrame_plg _) h
  case pyuDispute q =>
    simp only [perform, pyuDispute]
    split
    · exact grew_endUnpaid _ h
    · exact h
  case pyuJoin =>
    simp only [perform, pyuJoin, offerRefresh, offerTake]
    repeat' split
    all_goals first | exact h | exact Grew.of_plg (offerFrame_plg _) h
  case pyuStaleCleared =>
    simp only [perform, pyuStaleCleared, offerTake]
    repeat' split
    all_goals first | exact h | exact Grew.of_plg (s := setPayment _ s) (offerFrame_plg _) h
  case pyuTakePosted g q => exact h
  case pyuTakeGivenUp g =>
    simp only [perform, pyuTakeGivenUp]
    split
    · exact grew_endUnpaid _ h
    · exact h
  case pyuHoldCleared b =>
    simp only [perform, pyuHoldCleared]
    split
    · exact grew_pyuTryWrite h
    · exact h
  case pyuTryWrite => exact grew_pyuTryWrite h
  case pyuEndUnpaid c => exact grew_endUnpaid c h
  case runEnded o cap => cases o <;> exact Grew.of_till (by simp [perform]) h
  all_goals exact Grew.of_till (by simp [perform]) h

theorem grew_react (e : Eff) (h : Grew g e.1.plg) : Grew g (react e).plg := react_keeps (fun s => Grew g s.plg) grew_perform e h

end Sys2Proof.Proofs
end

section
/-! ## The growth of the log by the effects of commands (R164, R167, R170)

Most effects leave the till, and with it the log, alone (`Grew.of_till`); the others have a lemma of their own here. -/

namespace Sys2Proof.Proofs

open Sys2Proof Sys2Proof.Machine

variable {g : Plg} {s t : State}

/-! ### Records of the reader, orders and the handover -/

theorem grew_tap (b n q) (h : Grew g s.plg) : Grew g (tap b n q s).plg := by
  have denied (o n) : Grew g (denyTap o n s).plg := by
    unfold denyTap
    dsimp only
    split
    · exact Grew.of_plg (sendSignal_plg _) h
    · exact Grew.of_plg (s := sendSignal false s) (postNotice_plg _ _ _ _ _) (Grew.of_plg (sendSignal_plg _) h)
  have started (p : Payment) : Grew g (startPayment p s).plg := by
    unfold startPayment
    have hoffered : Grew g (offerFrame (.holdTake p.badge p.tag) s).plg := Grew.of_plg (offerFrame_plg _) h
    dsimp only
    repeat' split
    · exact denied _ _
    all_goals exact grew_reserveUp 3 (s := useRefund _ _ ((offerFrame (.holdTake p.badge p.tag) s).onPyu _)) hoffered
  unfold tap
  dsimp only
  repeat' split
  all_goals first | exact denied _ _ | exact started _

theorem grew_readerPresent (b n q) (h : Grew g s.plg) : Grew g (readerPresent b n q s).1.plg := by
  unfold readerPresent retap
  repeat' split
  all_goals first
    | exact grew_tap _ _ _ h
    | exact Grew.of_plg (sendSignal_plg _) h
    | exact grew_completePayment h
    | exact grew_endUnpaid _ h
    | exact grew_endUnpaid _ (Grew.of_plg (postNotice_plg _ _ _ _ _) h)
    | exact h

theorem grew_readerRemoved (b) (h : Grew g s.plg) : Grew g (readerRemoved b s).1.plg := by
  unfold readerRemoved
  split
  · exact grew_endUnpaid _ h
  · exact h

theorem grew_readerWritten (b q) (h : Grew g s.plg) : Grew g (readerWritten b q s).1.plg := by
  unfold readerWritten
  split
  · exact grew_completePayment (s := s.onPyu _) h
  · exact h

theorem grew_enterVerify (h : Grew g s.plg) : Grew g (enterVerify s).plg := by
  unfold enterVerify
  split
  · exact h
  · exact Grew.of_plg (s := setPayment _ s) (postNotice_plg _ _ _ _ _) h

theorem grew_readerWriteFailed (b r) (h : Grew g s.plg) : Grew g (readerWriteFailed b r s).1.plg := by
  unfold readerWriteFailed
  repeat' split
  all_goals first | exact h | exact grew_endUnpaid _ h | exact grew_enterVerify h

theorem grew_takeReaderRecord (r) (h : Grew g s.plg) : Grew g (takeReaderRecord r s).1.plg := by
  cases r with
  | present => exact grew_readerPresent _ _ _ h
  | removed => exact grew_readerRemoved _ h
  | written => exact grew_readerWritten _ _ h
  | writeFailed => exact grew_readerWriteFailed _ _ h

theorem grew_holdWaitEnd (h : Grew g s.plg) : Grew g (holdWaitEnd s).1.plg := by
  unfold holdWaitEnd
  split <;> exact grew_endUnpaid _ h

theorem grew_refreshDue (h : Grew g s.plg) : Grew g (refreshDue s).plg := by
  unfold refreshDue offerRefresh offerTake
  repeat' split
  all_goals first | exact h | exact Grew.of_plg (s := setPayment _ s) (offerFrame_plg _) h

theorem grew_readerSend (h : Grew g s.plg) : Grew g (readerSend s).plg := by
  unfold readerSend
  dsimp only
  repeat' split
  all_goals exact h

theorem grew_tapExpiry (n) (h : Grew g s.plg) : Grew g (tapExpiry n s).1.plg := by
  unfold tapExpiry
  dsimp only
  repeat' split
  all_goals first | exact h | exact grew_closeOrder (s := setOrder n _ s) _ _ h

theorem grew_cancelOrder (n) (h : Grew g s.plg) : Grew g (cancelOrder n s).1.1.plg := by
  unfold cancelOrder cancelRun
  dsimp only
  repeat' split
  all_goals first
    | exact h
    | exact grew_closeOrder _ _ h
    | exact Grew.of_till (t := (cancelGrind n (recordAbort .cancelled s)).1) (by simp) h

theorem grew_admitOrder (o) (h : Grew g s.plg) : Grew g (admitOrder o s).1.plg :=
  Grew.of_till (s := s.onOru fun u => { u with queue := u.queue ++ [o], nextNumber := numberAfter o.number }) till_clearStandby h

theorem grew_handoverOrders (l : List Order) (h : Grew g s.plg) : Grew g (handoverOrders l s).plg := by
  induction l generalizing s with
  | nil => exact h
  | cons o rest ih =>
    refine ih ?_
    split
    · exact grew_placeEntry _ _ _ _ _ _ _ _ (s := listDue _ _ s) h
    · exact h

theorem grew_handoverPayment (h : Grew g s.plg) : Grew g (handoverPayment s).plg := by
  unfold handoverPayment
  repeat' split
  all_goals first | exact h | exact grew_placeEntry _ _ _ _ _ _ _ _ h

/-- A warm reset appends its handover and removes nothing (R170). -/
theorem grew_warmReset (h : Grew g s.plg) : Grew g (warmReset s).plg := by
  have hpuck (u : State) : (freeRefunds (handoverPuck u)).plg = u.plg := by
    simp only [freeRefunds, handoverPuck]
    split <;> rfl
  have handed (u : State) (hu : Grew g u.plg) :
      Grew g (freeRefunds (handoverPuck (handoverPayment (handoverOrders u.oru.queue u)))).plg :=
    Grew.of_plg (hpuck _) (grew_handoverPayment (grew_handoverOrders _ hu))
  unfold warmReset
  refine Grew.of_eq (s := freeRefunds (handoverPuck (handoverPayment (handoverOrders _ _)))) rfl rfl (handed _ ?_)
  split
  · exact Grew.of_till till_stopLevels h
  · exact h

theorem grew_loadWatermark (h : Grew g s.plg) : Grew g (loadWatermark s).plg := by
  have hflag (armed : Bool) : Grew g (s.onPlg fun p => { p with armed := armed }).plg := Grew.of_eq (s := s) rfl rfl h
  unfold loadWatermark
  split
  · exact hflag true
  · exact Grew.of_plg (postNotice_plg _ _ _ _ _) (hflag false)

theorem grew_configRead (image) (h : Grew g s.plg) : Grew g (configRead image s).plg := by
  unfold configRead
  repeat' split
  · exact h
  · exact h
  · unfold loadOk
    refine grew_react _ (Grew.of_till (till_enterMode _) (grew_loadWatermark (Grew.of_till till_loadDue ?_)))
    refine runActs_keeps (fun s => Grew g s.plg) grew_perform _ _ _ (Grew.of_till ?_ h)
    rw [till_loadLatches, till_loadBrewer, till_loadLine]
  · exact h
  · exact Grew.of_till (s := s) (by simp only [loadFail, till_onPlk, till_stopLevels]; rfl) h

end Sys2Proof.Proofs
end

section
/-! ## What a command leaves steady (R123, R202)

The time base, the waiting commands and the next order number are moved by no report between blocks (`quiet_react`), and by the effect
of no command but an admission and a reset. -/

/-- The time base, the waiting commands and the next order number. -/
def Sys2Proof.Machine.State.steady (s : Sys2Proof.Machine.State) : Nat × Nat × List Sys2Proof.Instr × Nat :=
  (s.timeBase, s.subMs, s.pending, s.oru.nextNumber)

namespace Sys2Proof.Proofs

open Sys2Proof Sys2Proof.Machine

variable {s t : State}

theorem steady_of_quiet (h : t.quiet = s.quiet) : t.steady = s.steady := by
  simp only [State.quiet, Quiet.mk.injEq] at h
  simp [State.steady, h]

theorem steady_react (e : Eff) : (react e).steady = e.1.steady := steady_of_quiet (quiet_react e)

/-! ### Updates of one block -/

@[simp] theorem steady_onPins (f) : (s.onPins f).steady = s.steady := rfl
@[simp] theorem steady_setLine (b) : (setLine b s).steady = s.steady := rfl
@[simp] theorem steady_onLau (f) : (s.onLau f).steady = s.steady := rfl
@[simp] theorem steady_onStu (f) : (s.onStu f).steady = s.steady := rfl
@[simp] theorem steady_onDcu (f) : (s.onDcu f).steady = s.steady := rfl
@[simp] theorem steady_onCnu (f) : (s.onCnu f).steady = s.steady := rfl
@[simp] theorem steady_onGrc (f) : (s.onGrc f).steady = s.steady := rfl
@[simp] theorem steady_onBrc (f) : (s.onBrc f).steady = s.steady := rfl

@[simp] theorem steady_onOru (f : Oru → Oru) (h : (f s.oru).nextNumber = s.oru.nextNumber) : (s.onOru f).steady = s.steady := by
  simp [State.steady, State.onOru, h]

@[simp] theorem steady_onPyu (f) : (s.onPyu f).steady = s.steady := rfl
@[simp] theorem steady_onPlg (f) : (s.onPlg f).steady = s.steady := rfl
@[simp] theorem steady_onClc (f) : (s.onClc f).steady = s.steady := rfl
@[simp] theorem steady_onPlk (f) : (s.onPlk f).steady = s.steady := rfl
@[simp] theorem steady_onCfl (f) : (s.onCfl f).steady = s.steady := rfl

/-! ### Operations that are quiet altogether -/

@[simp] theorem steady_postNotice (k o c d1 d2) : (postNotice k o c d1 d2 s).steady = s.steady :=
  steady_of_quiet (quiet_postNotice _ _ _ _ _)

@[simp] theorem steady_offerFrame (o) : (offerFrame o s).steady = s.steady := steady_of_quiet (quiet_offerFrame _)
@[simp] theorem steady_offerPlainClaim : (offerPlainClaim s).steady = s.steady := steady_of_quiet quiet_offerPlainClaim
@[simp] theorem steady_setPump (d) : (setPump d s).steady = s.steady := steady_of_quiet (quiet_setPump _)
@[simp] theorem steady_setGrinder (b) : (setGrinder b s).steady = s.steady := steady_of_quiet (quiet_setGrinder _)
@[simp] theorem steady_setBrewer (v) : (setBrewer v s).steady = s.steady := steady_of_quiet (quiet_setBrewer _)
@[simp] theorem steady_heatLoad : (heatLoad s).steady = s.steady := steady_of_quiet quiet_heatLoad
@[simp] theorem steady_phaseSet (p) : (phaseSet p s).steady = s.steady := steady_of_quiet (quiet_phaseSet _)
@[simp] theorem steady_stopLevels : (stopLevels s).steady = s.steady := steady_of_quiet quiet_stopLevels
@[simp] theorem steady_moveOver : (moveOver s).steady = s.steady := steady_of_quiet quiet_moveOver
@[simp] theorem steady_reportRegulator : (reportRegulator s).steady = s.steady := steady_of_quiet quiet_reportRegulator
@[simp] theorem steady_appendEntry (k b a o r m c u) : (appendEntry k b a o r m c u s).steady = s.steady :=
  steady_of_quiet (quiet_appendEntry _ _ _ _ _ _ _ _)

@[simp] theorem steady_appendRefundDue (b a o) : (appendRefundDue b a o s).steady = s.steady :=
  steady_of_quiet (quiet_appendRefundDue _ _ _)

@[simp] theorem steady_reserveUp (n) : (reserveUp n s).steady = s.steady := steady_of_quiet (quiet_reserveUp _)
@[simp] theorem steady_reserveDown (n) : (reserveDown n s).steady = s.steady := steady_of_quiet (quiet_reserveDown _)
@[simp] theorem steady_setDue (k) : (setDue k s).steady = s.steady := steady_of_quiet (quiet_setDue _)
@[simp] theorem steady_setRun (f) : (setRun f s).steady = s.steady := steady_of_quiet (quiet_setRun _)
@[simp] theorem steady_setOrder (n f) : (setOrder n f s).steady = s.steady := steady_of_quiet (quiet_setOrder _ _)
@[simp] theorem steady_setPayment (f) : (setPayment f s).steady = s.steady := steady_of_quiet (quiet_setPayment _)
@[simp] theorem steady_sendSignal (b) : (sendSignal b s).steady = s.steady := steady_of_quiet (quiet_sendSignal _)
@[simp] theorem steady_oruPaid (n b d) : (oruPaid n b d s).steady = s.steady := steady_of_quiet (quiet_oruPaid _ _ _)
@[simp] theorem steady_oruPaying (n) : (oruPaying n s).steady = s.steady := steady_of_quiet (quiet_oruPaying _)
@[simp] theorem steady_offerRefresh (p) : (offerRefresh p s).steady = s.steady := steady_of_quiet (quiet_offerRefresh _)
@[simp] theorem steady_enterWriting (p) : (enterWriting p s).steady = s.steady := steady_of_quiet (quiet_enterWriting _)
@[simp] theorem steady_endUnpaid (c) : (endUnpaid c s).1.steady = s.steady := steady_of_quiet (quiet_endUnpaid _)
@[simp] theorem steady_endRun (c k) : (endRun c k s).1.steady = s.steady := steady_of_quiet (quiet_endRun _ _)
@[simp] theorem steady_disarm (c) : (disarm c s).1.steady = s.steady := steady_of_quiet (quiet_disarm _)
@[simp] theorem steady_countOverload : (countOverload s).1.steady = s.steady := steady_of_quiet quiet_countOverload
@[simp] theorem steady_failRun (o b) : (failRun o b s).1.steady = s.steady := steady_of_quiet (quiet_failRun _ _)
@[simp] theorem steady_endWaiting (o) : (endWaiting o s).1.steady = s.steady := steady_of_quiet (quiet_endWaiting _)
@[simp] theorem steady_clearServiceWish : (clearServiceWish s).1.steady = s.steady :=
  steady_of_quiet quiet_clearServiceWish

@[simp] theorem steady_cancelGrind (n) : (cancelGrind n s).1.steady = s.steady := steady_of_quiet (quiet_cancelGrind _)
@[simp] theorem steady_brcAbort (r) : (brcAbort r s).1.steady = s.steady := steady_of_quiet (quiet_brcAbort _)
@[simp] theorem steady_recordAbort (r) : (recordAbort r s).steady = s.steady := steady_of_quiet (quiet_recordAbort _)
@[simp] theorem steady_clearStandby : (clearStandby s).1.steady = s.steady := steady_of_quiet quiet_clearStandby
@[simp] theorem steady_stuckLatch (n) : (stuckLatch n s).1.steady = s.steady := steady_of_quiet (quiet_stuckLatch _)
@[simp] theorem steady_closeOrder (o r) : (closeOrder o r s).1.steady = s.steady :=
  steady_of_quiet (quiet_closeOrder _ _)

@[simp] theorem steady_clcAbort (r b) : (clcAbort r b s).1.steady = s.steady := steady_of_quiet (quiet_clcAbort _ _)
@[simp] theorem steady_clcStepEnd : (clcStepEnd s).1.steady = s.steady := steady_of_quiet quiet_clcStepEnd

/-! ### Operations of the line, the share table and the counters -/

@[simp] theorem steady_onCounter (c f) : (onCounter c f s).steady = s.steady := by
  cases c <;> rfl

@[simp] theorem steady_staleMark (b) : (staleMark b s).steady = s.steady := by
  simp only [staleMark]
  repeat' split
  all_goals first | rfl | simp

@[simp] theorem steady_stuWithdraw : (stuWithdraw s).1.steady = s.steady := by
  simp only [stuWithdraw]
  repeat' split
  all_goals first | rfl | simp

@[simp] theorem steady_setGuard : (setGuard s).steady = s.steady := rfl
@[simp] theorem steady_toHunt : (toHunt s).steady = s.steady := rfl

@[simp] theorem steady_setEntry (n e) : (setEntry n e s).steady = s.steady := by
  simp only [setEntry]
  split <;> rfl

@[simp] theorem steady_noteSeq (n e) : (noteSeq n e s).steady = s.steady := by
  simp [noteSeq]

@[simp] theorem steady_staleClear : (staleClear s).1.steady = s.steady := rfl
@[simp] theorem steady_leaveAwaited (n) : (leaveAwaited n s).steady = s.steady := rfl

@[simp] theorem steady_heardAwaited (n) : (heardAwaited n s).1.steady = s.steady := by
  simp only [heardAwaited]
  split <;> rfl

@[simp] theorem steady_disputeTest (a b c d) : (disputeTest a b c d s).steady = s.steady := by
  simp only [disputeTest]
  repeat' split
  all_goals first | rfl | simp

@[simp] theorem steady_noteMismatch (a b c d e) : (noteMismatch a b c d e s).steady = s.steady := by
  simp only [noteMismatch]
  repeat' split
  all_goals first | rfl | simp

@[simp] theorem steady_dropDispute (a b) : (dropDispute a b s).steady = s.steady := rfl

@[simp] theorem steady_isolate : (isolate s).1.steady = s.steady := by
  simp [isolate]

@[simp] theorem steady_rejoin : (rejoin s).1.steady = s.steady := by
  simp only [rejoin]
  split <;> simp

@[simp] theorem steady_claimPosted (q) : (claimPosted q s).steady = s.steady := rfl

@[simp] theorem steady_notePosted (o q) : (notePosted o q s).1.steady = s.steady := by
  simp only [notePosted]
  split <;> simp

@[simp] theorem steady_stuClaimFailed (o q) : (stuClaimFailed o q s).steady = s.steady := by
  simp only [stuClaimFailed]
  repeat' split
  all_goals rfl

@[simp] theorem steady_noteFailed (o q b) : (noteFailed o q b s).1.steady = s.steady := by
  simp only [noteFailed]
  split <;> first | rfl | simp

@[simp] theorem steady_stuGuardEnd : (stuGuardEnd s).1.steady = s.steady := by
  simp only [stuGuardEnd]
  repeat' split
  all_goals rfl

@[simp] theorem steady_flowCount : (flowCount s).steady = s.steady := by
  simp only [flowCount]
  repeat' split
  all_goals first | rfl | simp

@[simp] theorem steady_oneShot (c) : (oneShot c s).steady = s.steady := by
  simp only [oneShot]
  split <;> simp

theorem steady_stuDeliver (n f) : (stuDeliver n f s).1.steady = s.steady := by
  cases f
  all_goals simp only [stuDeliver, stuJoin, stuClaim, stuHold, stuNeedHeard, stuDispute]
  all_goals repeat' split
  all_goals first | rfl | simp

@[simp] theorem steady_frameEnd (f) : (frameEnd f s).steady = s.steady := by
  simp only [frameEnd]
  split <;> rfl

theorem steady_sameStation (f) : (sameStation f s).steady = s.steady := by
  simp only [sameStation]
  split <;> simp [steady_frameEnd]

theorem steady_deliver (n f) : (deliver n f s).1.steady = s.steady := by
  simp only [deliver]
  split
  · exact steady_sameStation f
  · rw [steady_stuDeliver, steady_frameEnd]

theorem steady_damaged : (damaged s).1.steady = s.steady := by
  simp [damaged, stuDamaged]

theorem steady_framePosted : (framePosted s).1.steady = s.steady := by
  simp only [framePosted]
  split
  · rfl
  · simp

theorem steady_collision : (collision s).1.steady = s.steady := by
  simp only [collision]
  repeat' split
  all_goals first | rfl | simp

theorem steady_guardEnd : (guardEnd s).1.steady = s.steady := by
  simp [guardEnd]

theorem steady_rxTake (a b c) : (rxTake a b c s).1.steady = s.steady := by
  simp only [rxTake, rxHeader, rxBody, rxCheck, rxComplete]
  repeat' split
  all_goals first | rfl | exact steady_damaged | exact steady_framePosted | exact steady_deliver _ _

theorem steady_rxCharacter (a b c) : (rxCharacter a b c s).1.steady = s.steady := steady_rxTake a b c

theorem steady_rxIdle : (rxIdle s).1.steady = s.steady := by
  simp only [rxIdle]
  repeat' split
  all_goals first | rfl | exact steady_damaged (s := setLine false s)

theorem steady_leaseExpire (n) : (leaseExpire n s).1.steady = s.steady := by
  simp [leaseExpire]

theorem steady_holdExpire (n) : (holdExpire n s).1.steady = s.steady := by
  simp [holdExpire]

theorem steady_renewal : (renewal s).1.steady = s.steady := by
  simp only [renewal]
  repeat' split
  all_goals simp

theorem steady_flowRise : (flowRise s).1.steady = s.steady := by
  simp only [flowRise, terminalCount]
  repeat' split
  all_goals first | rfl | simp

theorem steady_encoderChange (a b) : (encoderChange a b s).1.steady = s.steady := by
  simp only [encoderChange, encoderMove, terminalCount]
  repeat' split
  all_goals first | rfl | simp

/-! ### Reader records and timers -/

theorem steady_denyTap (o n) : (denyTap o n s).steady = s.steady := by
  simp only [denyTap]
  split <;> simp

theorem steady_startPayment (p) : (startPayment p s).steady = s.steady := by
  simp only [startPayment, useRefund, oruPaying]
  repeat' split
  all_goals first | exact steady_denyTap _ _ | simp

@[simp] theorem steady_tap (b n q) : (tap b n q s).steady = s.steady := by
  simp only [tap]
  repeat' split
  all_goals first | exact steady_denyTap _ _ | exact steady_startPayment _

@[simp] theorem steady_completeTail (p o c) : (completeTail p o c s).steady = s.steady := by
  simp [completeTail]

@[simp] theorem steady_completeAppends (p) : (completeAppends p s).steady = s.steady := by
  simp only [completeAppends]
  repeat' split
  all_goals first | rfl | simp

@[simp] theorem steady_completePayment : (completePayment s).1.steady = s.steady := by
  simp only [completePayment, oruPaid]
  repeat' split
  all_goals simp

theorem steady_readerPresent (b n q) : (readerPresent b n q s).1.steady = s.steady := by
  simp only [readerPresent, retap]
  repeat' split
  all_goals first | rfl | simp

theorem steady_readerRemoved (b) : (readerRemoved b s).1.steady = s.steady := by
  simp only [readerRemoved]
  split <;> simp

theorem steady_readerWritten (b n) : (readerWritten b n s).1.steady = s.steady := by
  simp only [readerWritten]
  split <;> simp

theorem steady_enterVerify : (enterVerify s).steady = s.steady := by
  simp only [enterVerify]
  split <;> simp

theorem steady_readerWriteFailed (b n) : (readerWriteFailed b n s).1.steady = s.steady := by
  simp only [readerWriteFailed]
  repeat' split
  all_goals first | rfl | exact steady_enterVerify | simp

theorem steady_takeReaderRecord (r) : (takeReaderRecord r s).1.steady = s.steady := by
  cases r
  · exact steady_readerPresent _ _ _
  · exact steady_readerRemoved _
  · exact steady_readerWritten _ _
  · exact steady_readerWriteFailed _ _

theorem steady_tapExpiry (n) : (tapExpiry n s).1.steady = s.steady := by
  simp only [tapExpiry]
  repeat' split
  all_goals simp

theorem steady_retapEnd : (retapEnd s).1.steady = s.steady := by
  simp only [retapEnd]
  repeat' split
  all_goals first | rfl | simp

theorem steady_readerSend : (readerSend s).steady = s.steady := by
  simp only [readerSend]
  repeat' split
  all_goals simp

theorem steady_holdWaitEnd : (holdWaitEnd s).1.steady = s.steady := by
  simp only [holdWaitEnd]
  split <;> simp

theorem steady_refreshDue : (refreshDue s).steady = s.steady := by
  simp only [refreshDue, offerRefresh, offerTake]
  repeat' split
  all_goals first | rfl | simp

theorem steady_clcStart : (clcStart s).1.steady = s.steady := by
  simp only [clcStart]
  split <;> simp

theorem steady_clcDrop : (clcDrop s).1.steady = s.steady := by
  simp only [clcDrop]
  split <;> simp

end Sys2Proof.Proofs
end

section
/-! ## The money law, command by command (R122, R123, R164, R165)

`Kept s t`: from `s` to `t` the money law holds on, the log grows at its tail, and what is steady is the same. Every command but
LOG_ACK, an admission and a power-on goes from a state to one that it keeps. -/

namespace Sys2Proof.Proofs

open Sys2Proof Sys2Proof.Machine

variable {s t : State}

/-- The money law is kept, the log only grows at its tail, and the steady part stays. -/
structure Kept (s t : State) : Prop where
  law : Ledger s → Ledger t
  log : Grew s.plg t.plg
  steady : t.steady = s.steady

theorem Kept.refl (s : State) : Kept s s := ⟨id, Grew.refl _, rfl⟩

theorem Kept.of_till (htill : t.till = s.till) (hsteady : t.steady = s.steady) : Kept s t :=
  ⟨Ledger.of_till htill, Grew.of_till htill (Grew.refl _), hsteady⟩

theorem Kept.react {e : Eff} (h : Kept s e.1) : Kept s (react e) :=
  ⟨fun hs => ledger_react e (h.law hs), grew_react e h.log, (steady_react e).trans h.steady⟩

theorem kept_whenWorking (f : State → Eff) (h : Kept s (f s).1) : Kept s (whenWorking f s) := by
  unfold whenWorking
  split
  · exact h.react
  · exact .refl s

theorem kept_onDue (d : Bool) (f : State → Eff) (h : Kept s (f s).1) : Kept s (onDue d f s) := by
  unfold onDue
  split
  · exact h.react
  · exact .refl s

theorem kept_request (k n a) (owner : State → Answer) (h : Kept s (owner s).state) : Kept s (request k n a owner s) := by
  unfold request
  repeat' split
  · exact .refl s
  · exact .of_till rfl rfl
  · exact ⟨fun hs => ledger_place _ _ _ (h.law hs), h.log, h.steady⟩

/-! ### Effects that leave the till alone -/

theorem kept_lossTrip (c : CounterId) : Kept s (lossTrip c s) := by
  unfold lossTrip
  split <;> exact .of_till (by simp) (by simp)

theorem kept_timeEnd (c : CounterId) : Kept s (timeEnd c s).1 := .of_till (by simp [timeEnd]) (by simp [timeEnd])

theorem kept_grindPowerEnd : Kept s (grindPowerEnd s).1 := by
  unfold grindPowerEnd
  split <;> exact .of_till (by simp) (by simp)

theorem kept_lidChange (b : Bool) : Kept s (lidChange b s).1 := by
  simp only [lidChange, grinderLineAsserted]
  repeat' split
  all_goals exact .of_till (by simp) (by simp)

theorem kept_overloadChange (b : Bool) : Kept s (overloadChange b s).1 := by
  simp only [overloadChange, grinderLineAsserted]
  repeat' split
  all_goals exact .of_till (by simp) (by simp)

theorem kept_switchChange (a b : Bool) : Kept s (switchChange a b s).1 := by
  simp only [switchChange]
  repeat' split
  all_goals exact .of_till (by simp) (by simp)

theorem kept_moveTimeout : Kept s (moveTimeout s).1 := by
  unfold moveTimeout
  split <;> exact .of_till (by simp) (by simp)

theorem steady_brcEnter (st : RunState) : (brcEnter st s).1.steady = s.steady := steady_of_quiet (quiet_brcEnter st)

theorem steady_endCupRun (p) : (endCupRun p s).1.steady = s.steady := steady_of_quiet (quiet_endCupRun p)

theorem steady_stuRetry : (stuRetry s).steady = s.steady := steady_of_quiet quiet_stuRetry

theorem kept_extractionEnd : Kept s (extractionEnd s).1 := .of_till (by simp [extractionEnd]) (by simp [extractionEnd])

theorem kept_recoveryStart : Kept s (recoveryStart s).1 := .of_till (by simp [recoveryStart]) (by simp [recoveryStart])

theorem kept_drawerChange (b : Bool) : Kept s (drawerChange b s).1 := by
  simp only [drawerChange]
  repeat' split
  all_goals exact .of_till (by simp) (by simp)

theorem kept_boilerChange (b : Bool) : Kept s (boilerChange b s).1 := by
  simp only [boilerChange]
  split <;> exact .of_till (by simp) (by simp)

theorem kept_overheatChange (b : Bool) : Kept s (overheatChange b s).1 := by
  simp only [overheatChange, overheatLatch]
  split <;> exact .of_till (by simp) (by simp)

theorem kept_clcStart : Kept s (clcStart s).1 := .of_till (by simp only [clcStart]; split <;> simp) steady_clcStart

theorem kept_clcDrop : Kept s (clcDrop s).1 := .of_till (by simp only [clcDrop]; split <;> simp) steady_clcDrop

theorem kept_lineBreak : Kept s (lineBreak s) := by
  unfold lineBreak
  split <;> exact .of_till (by simp) (by simp)

theorem kept_syncOpen : Kept s (syncOpen s) := by
  unfold syncOpen
  split <;> exact .of_till (by simp) (by simp)

theorem kept_syncClose : Kept s (syncClose s) := by
  unfold syncClose
  split <;> exact .of_till (by simp) (by simp)

theorem kept_lineLow (b : Bool) : Kept s (lineLow b s) := by
  refine .of_till (till_lineLow b) ?_
  simp only [lineLow]
  split <;> rfl

theorem kept_resetNegate : Kept s (resetNegate s) := by
  unfold resetNegate
  split
  · exact .of_till rfl rfl
  · exact .refl s

/-! ### Effects on the till -/

theorem kept_takeReaderRecord (r : ReaderRecord) : Kept s (takeReaderRecord r s).1 :=
  ⟨ledger_takeReaderRecord r, grew_takeReaderRecord r (Grew.refl _), steady_takeReaderRecord r⟩

theorem kept_takeReaderRecords (l : List ReaderRecord) (h : Kept s t) : Kept s (takeReaderRecords l t) := by
  induction l generalizing t with
  | nil => exact h
  | cons r rest ih =>
    obtain ⟨hlaw, hlog, hsteady⟩ := kept_whenWorking (s := t) _ (kept_takeReaderRecord r)
    refine ih ⟨hlaw ∘ h.law, ?_, hsteady.trans h.steady⟩
    obtain ⟨⟨new, hnew⟩, hseq⟩ := h.log
    obtain ⟨⟨more, hmore⟩, hseq'⟩ := hlog
    exact ⟨⟨new ++ more, by rw [hmore, hnew, List.append_assoc]⟩, hseq' ∘ hseq⟩

theorem steady_loadLine (c : Cfg) : (loadLine c s).steady = s.steady := by simp only [loadLine, steady_staleMark]; rfl

theorem steady_loadBrewer (cold : Bool) : (loadBrewer cold s).steady = s.steady := by
  simp only [loadBrewer]
  repeat' split
  all_goals first | rfl | simp

theorem steady_loadLatches : (loadLatches s).1.steady = s.steady := by
  simp only [loadLatches, overheatLatch]
  repeat' split
  all_goals first | rfl | simp

theorem steady_loadDue : (loadDue s).steady = s.steady := by
  simp only [loadDue]
  repeat' split
  all_goals simp

theorem steady_loadWatermark : (loadWatermark s).steady = s.steady := by
  simp only [loadWatermark]
  split <;> simp

theorem steady_enterMode (m : Mode) : (enterMode m s).1.steady = s.steady := by
  simp only [enterMode]
  split <;> simp

theorem steady_loadOk (c : Cfg) : (loadOk c s).steady = s.steady := by
  unfold loadOk
  rw [steady_react, steady_enterMode, steady_onPyu, steady_loadWatermark, steady_loadDue, steady_of_quiet (quiet_runActs _ _ _),
    steady_loadLatches, steady_loadBrewer, steady_loadLine]

theorem steady_configRead (image : List Byte) : (configRead image s).steady = s.steady := by
  unfold configRead
  repeat' split
  · rfl
  · rfl
  · exact steady_loadOk _
  · rfl
  · exact (steady_onPlk _).trans (steady_stopLevels.trans rfl)

theorem kept_configRead (image : List Byte) : Kept s (configRead image s) :=
  ⟨ledger_configRead image, grew_configRead image (Grew.refl _), steady_configRead image⟩

end Sys2Proof.Proofs
end

section
/-! ## What every command answers, and the money law at every step (R122, R123, R164, R165, R202) -/

namespace Sys2Proof.Proofs

open Sys2Proof Sys2Proof.Machine

variable {s t : State}

/-! ### Requests -/

theorem kept_reqCancel (n : Nat) : Kept s (reqCancel n s) := by
  have hcancel : Kept s (cancelOrder n s).1.1 := by
    refine ⟨ledger_cancelOrder n, grew_cancelOrder n (Grew.refl _), ?_⟩
    unfold cancelOrder cancelRun
    dsimp only
    repeat' split
    all_goals simp
  refine kept_request _ _ _ _ ?_
  simp only [answerCancel]
  split
  · exact .refl s
  · exact hcancel.react

theorem kept_reqCleanRequest (kind : Nat) : Kept s (reqCleanRequest kind s) := by
  refine kept_request _ _ _ _ ?_
  simp only [answerCleanRequest]
  split
  · exact .refl s
  · exact Kept.react (.of_till (by simp) (by simp))

theorem kept_reqCleanCancel : Kept s (reqCleanCancel s) := by
  refine kept_request _ _ _ _ ?_
  simp only [answerCleanCancel]
  split
  · exact .refl s
  · exact Kept.react (.of_till (by simp) (by simp))

theorem kept_reqPromptDone : Kept s (reqPromptDone s) := by
  refine kept_request _ _ _ _ ?_
  simp only [answerPromptDone]
  split
  · exact Kept.react (.of_till (by simp) (by simp))
  · exact .refl s

theorem kept_reqServiceEnter : Kept s (reqServiceEnter s) := by
  refine kept_request _ _ _ _ ?_
  simp only [answerServiceEnter]
  repeat' split
  all_goals first
    | exact .refl s
    | exact Kept.react (.of_till (till_clearStandby.trans (till_enterMode _)) (steady_clearStandby.trans (steady_enterMode _)))

theorem kept_reqServiceLeave : Kept s (reqServiceLeave s) := by
  have hsteady : (serviceLeave s).1.steady = s.steady := by
    simp only [serviceLeave]
    rw [steady_enterMode]
    simp
  exact kept_request _ _ _ _ (Kept.react (.of_till till_serviceLeave hsteady))

theorem kept_reqServiceReset : Kept s (reqServiceReset s) := kept_request _ _ _ _ (Kept.react (.of_till rfl rfl))

theorem steady_serviceDrive {channel value : Nat} {e : Eff} (h : serviceDrive channel value s = .ok e) : e.1.steady = s.steady := by
  simp only [serviceDrive, serviceGrindOff, serviceGrindOn, serviceMove] at h
  repeat' split at h
  all_goals cases h
  all_goals repeat' split
  all_goals simp

theorem kept_reqServiceDrive (channel value : Nat) : Kept s (reqServiceDrive channel value s) := by
  refine kept_request _ _ _ _ ?_
  simp only [answerServiceDrive]
  repeat' split
  all_goals first
    | exact .refl s
    | next e he => exact Kept.react (.of_till (till_serviceDrive _ _ _ he) (steady_serviceDrive he))

theorem kept_readReply (length check : Byte) (clocked : Nat) : Kept s (readReply length check clocked s) := by
  unfold readReply
  repeat' split
  all_goals exact .of_till rfl rfl

/-! ### The commands that keep all of it -/

/-- All commands but an admission, an acknowledgement, a transfer given by its bytes and the resets. -/
def ordinary : Instr → Bool
  | .supplyUp _ | .resetNAssert _ | .logAck _ | .order _ _ _ _ | .panelTransferInvalid _ => false
  | _ => true

theorem kept_taken {c : Instr} (hc : ordinary c = true) : Kept s (taken c s) := by
  cases c with
  | supplyUp b | resetNAssert b | logAck n | order r z w m | panelTransferInvalid l => exact absurd hc (by simp [ordinary])
  | resetNNegate => exact kept_resetNegate
  | configReadDone image => exact kept_configRead image
  | lineBreakDetected => exact kept_lineBreak
  | syncBreakEnd => exact kept_syncOpen
  | syncWindowClose => exact kept_syncClose
  | lineLowLevel b => exact kept_lineLow b
  | rxCharacter d f e =>
    show Kept s (if s.working then whenWorking (rxCharacter d f e) s else setLine e s)
    split
    · exact kept_whenWorking _ (.of_till (till_rxCharacter d f e) (steady_rxCharacter d f e))
    · exact .of_till rfl rfl
  | rxIdleTimeout => exact kept_whenWorking _ (.of_till till_rxIdle steady_rxIdle)
  | claimDelivered n b => exact kept_whenWorking _ (.of_till (till_deliver n _) (steady_deliver n _))
  | holdDelivered n b => exact kept_whenWorking _ (.of_till (till_deliver n _) (steady_deliver n _))
  | joinDelivered n b => exact kept_whenWorking _ (.of_till (till_deliver n _) (steady_deliver n _))
  | disputeDelivered n b => exact kept_whenWorking _ (.of_till (till_deliver n _) (steady_deliver n _))
  | needDelivered n b => exact kept_whenWorking _ (.of_till (till_deliver n _) (steady_deliver n _))
  | sameStationFrame f => exact kept_whenWorking (fun s => (sameStation f s, [])) (.of_till (till_sameStation f) (steady_sameStation f))
  | collision => exact kept_whenWorking _ (.of_till till_collision steady_collision)
  | framePosted => exact kept_whenWorking _ (.of_till till_framePosted steady_framePosted)
  | accessWon => exact kept_onDue _ _ (.of_till till_lauAccess (steady_of_quiet quiet_lauAccess))
  | guardEnd => exact kept_onDue _ _ (.of_till till_guardEnd steady_guardEnd)
  | leaseExpiry n => exact kept_onDue _ _ (.of_till (till_leaseExpire n) (steady_leaseExpire n))
  | holdDeadlineExpiry n => exact kept_onDue _ _ (.of_till (till_holdExpire n) (steady_holdExpire n))
  | retryTimer => exact kept_onDue _ (fun s => (stuRetry s, [])) (.of_till till_stuRetry steady_stuRetry)
  | renewalDue => exact kept_onDue _ _ (.of_till till_renewal steady_renewal)
  | staleClearTime => exact kept_onDue _ _ (.of_till till_staleClear steady_staleClear)
  | needUnmetTimer => exact kept_onDue _ (fun s => (offerFrame .need s, [])) (.of_till (till_offerFrame _) (steady_offerFrame _))
  | stepDownEnd => exact kept_onDue _ _ (.of_till till_stuStepDownEnd (steady_of_quiet quiet_stuStepDownEnd))
  | encoderStep a b => exact Kept.react (.of_till (till_encoderChange a b) (steady_encoderChange a b))
  | flowEdge => exact kept_whenWorking _ (.of_till till_flowRise steady_flowRise)
  | spinUpExpiry k => exact kept_onDue _ (fun s => (spinUpDone k s, [])) (.of_till (till_onCounter k _) (steady_onCounter k _))
  | lossTimeExpiry k => exact kept_onDue _ (fun s => (lossTrip k s, [])) (kept_lossTrip k)
  | timedRunEnd k => exact kept_onDue _ _ (kept_timeEnd k)
  | grindPowerTimeout => exact kept_onDue _ _ kept_grindPowerEnd
  | lidOpenAssert b => exact Kept.react (kept_lidChange b)
  | grOvldAssert b => exact Kept.react (kept_overloadChange b)
  | brewerEndSwitch a b => exact Kept.react (kept_switchChange a b)
  | brewerMotionTimeout => exact kept_onDue _ _ kept_moveTimeout
  | prewetLimitExpiry => exact kept_onDue _ _ (.of_till (till_disarm .flow) (steady_disarm .flow))
  | soakTimerExpiry => exact kept_onDue _ _ (.of_till (till_brcEnter _) (steady_brcEnter _))
  | heatWaitTimeout => exact kept_onDue _ _ (.of_till (till_brcAbort _) (steady_brcAbort _))
  | extractionDeadline => exact kept_onDue _ _ kept_extractionEnd
  | drainTimerExpiry => exact kept_onDue _ _ (.of_till (till_brcEnter _) (steady_brcEnter _))
  | ejectTimeout => exact kept_onDue _ _ (.of_till (till_endCupRun _) (steady_endCupRun _))
  | drawerInChange b => exact Kept.react (kept_drawerChange b)
  | recoveryEjectStart => exact kept_onDue _ _ kept_recoveryStart
  | boilColdChange b => exact Kept.react (kept_boilerChange b)
  | boilOvhtAssert b => exact Kept.react (kept_overheatChange b)
  | standbyTimeout => exact kept_onDue _ (fun s => (s.onBrc fun b => { b with standby := true }, [.brcHeat])) (.of_till rfl rfl)
  | tapDeadline n => exact kept_onDue _ _ ⟨ledger_tapExpiry n, grew_tapExpiry n (Grew.refl _), steady_tapExpiry n⟩
  | readerPresent b n q => exact kept_whenWorking _ (kept_takeReaderRecord (.present b n q))
  | readerRemoved b => exact kept_whenWorking _ (kept_takeReaderRecord (.removed b))
  | readerWritten b n => exact kept_whenWorking _ (kept_takeReaderRecord (.written b n))
  | readerWriteFailed b r => exact kept_whenWorking _ (kept_takeReaderRecord (.writeFailed b r))
  | readerRecordBad l =>
    show Kept s (if s.working then takeReaderRecords ((s.readerRecords l).filterMap readerRecordOf) (readerHeard s) else s)
    split
    · exact kept_takeReaderRecords _ ⟨Ledger.of_eq (s := s) rfl rfl rfl rfl, Grew.refl _, rfl⟩
    · exact .refl s
  | readerSendStart =>
    exact kept_onDue _ (fun s => (readerSend s, [])) ⟨ledger_readerSend, grew_readerSend (Grew.refl _), steady_readerSend⟩
  | writeReplyTimeout =>
    exact kept_onDue _ (fun s => (enterVerify s, [])) ⟨ledger_enterVerify, grew_enterVerify (Grew.refl _), steady_enterVerify⟩
  | holdWaitTimeout => exact kept_onDue _ _ ⟨ledger_holdWaitEnd, grew_holdWaitEnd (Grew.refl _), steady_holdWaitEnd⟩
  | holdRefreshDue =>
    exact kept_onDue _ (fun s => (refreshDue s, [])) ⟨ledger_refreshDue, grew_refreshDue (Grew.refl _), steady_refreshDue⟩
  | holdLapse =>
    exact kept_onDue _ (fun s => (setPayment (fun p => { p with lapsed := true }) s, []))
      ⟨ledger_setPayment _, Grew.refl _, steady_setPayment _⟩
  | retapDeadline => exact kept_onDue _ _ ⟨ledger_retapEnd, grew_retapEnd (Grew.refl _), steady_retapEnd⟩
  | cycleStart => exact kept_onDue _ _ kept_clcStart
  | flushDeadline => exact kept_onDue _ _ (.of_till (till_disarm .flow) (steady_disarm .flow))
  | cleanHeatWaitTimeout => exact kept_onDue _ _ (.of_till (till_clcAbort _ _) (steady_clcAbort _ _))
  | stepTimerExpiry => exact kept_onDue _ _ (.of_till till_clcStepEnd steady_clcStepEnd)
  | promptTimeout => exact kept_onDue _ _ (.of_till (till_clcAbort _ _) (steady_clcAbort _ _))
  | suspendLimitExpiry => exact kept_onDue _ _ kept_clcDrop
  | cancel n => exact kept_reqCancel _
  | logRead => exact kept_request 4 0 .unlessHalted answerLogRead (.refl s)
  | promptDone => exact kept_reqPromptDone
  | cleanRequest k => exact kept_reqCleanRequest _
  | cleanCancel => exact kept_reqCleanCancel
  | status => exact kept_request 1 0 .always answerStatus (.refl s)
  | readReply n k m => exact kept_readReply n k m
  | noticeRead => exact kept_request 3 0 .unlessHalted answerNoticeRead (.of_till rfl rfl)
  | serviceEnter => exact kept_reqServiceEnter
  | serviceLeave => exact kept_reqServiceLeave
  | serviceReset => exact kept_reqServiceReset
  | serviceDrive k v => exact kept_reqServiceDrive _ _
  | partId => exact kept_request 15 0 .always answerPartId (.refl s)

end Sys2Proof.Proofs
end

section
/-! ## The answers of all commands, and the law of every step (R122, R123, R164, R165, R202) -/

namespace Sys2Proof.Proofs

open Sys2Proof Sys2Proof.Machine

variable {s t : State}

/-! ### The ranges of the next order number and the next sequence -/

theorem Grew.numbered (h : Grew s.plg t.plg) (horder : t.oru.nextNumber = s.oru.nextNumber) (hs : Numbered s) : Numbered t :=
  ⟨horder ▸ hs.order, h.seq hs.log⟩

theorem Kept.numbered (h : Kept s t) : Numbered s → Numbered t := h.log.numbered (congrArg (·.2.2.2) h.steady)

/-- Whatever an owner answers, the reply is placed beside it: a request keeps what the answer keeps. -/
theorem request_keeps {P : State → Prop} (hreply : ∀ f u, P u → P (u.onPlk f)) (k n a) (owner : State → Answer) (hs : P s)
    (howner : P (owner s).state) : P (request k n a owner s) := by
  unfold request
  repeat' split
  · exact hs
  · exact hreply _ _ hs
  · exact hreply _ _ howner

theorem grew_react_admitOrder (o : Order) : Grew s.plg (react (admitOrder o s)).plg :=
  grew_react _ (grew_admitOrder o (Grew.refl _))

theorem nextNumber_reactAdmit (o : Order) : (react (admitOrder o s)).oru.nextNumber = numberAfter o.number :=
  (nextNumber_react _).trans (nextNumber_admitOrder o s)

theorem numbered_answerOrder (r z w m : Nat) (h : Numbered s) : Numbered (answerOrder r z w m s).state := by
  rcases answerOrder_cases r z w m s with ⟨refusal, _, hanswer⟩ | ⟨o, body, _, hanswer⟩ <;> rw [hanswer]
  case inl => exact h
  case inr =>
    exact ⟨by rw [answerOk, nextNumber_reactAdmit]; exact numberAfter_range _, (grew_react_admitOrder o).seq h.log⟩

theorem grew_answerOrder (r z w m : Nat) : Grew s.plg (answerOrder r z w m s).state.plg := by
  rcases answerOrder_cases r z w m s with ⟨refusal, _, hanswer⟩ | ⟨o, body, _, hanswer⟩ <;> rw [hanswer]
  case inl => exact Grew.refl _
  case inr => exact grew_react_admitOrder o

/-- An acknowledgement shortens the log and leaves both numbers alone (R167). -/
theorem numbered_answerLogAck (n : Nat) (h : Numbered s) : Numbered (answerLogAck n s).state := by
  unfold answerLogAck
  split
  · exact h
  · exact ⟨h.order, h.log⟩

/-! ### The time base and the waiting commands -/

/-- The same time and the same commands waiting. -/
structure SameClock (s t : State) : Prop where
  pending : t.pending = s.pending
  timeBase : t.timeBase = s.timeBase
  subMs : t.subMs = s.subMs

theorem SameClock.of_steady (h : t.steady = s.steady) : SameClock s t := by
  simp only [State.steady, Prod.mk.injEq] at h
  obtain ⟨htime, hsub, hpending, _⟩ := h
  exact ⟨hpending, htime, hsub⟩

/-- An admission moves no more of the steady part than the next order number. -/
theorem sameClock_react_admitOrder (o : Order) : SameClock s (react (admitOrder o s)) := by
  have hclear : (admitOrder o s).1.quiet
      = (s.onOru fun u => { u with queue := u.queue ++ [o], nextNumber := numberAfter o.number }).quiet := quiet_clearStandby
  have hreact := (quiet_react (admitOrder o s)).trans hclear
  exact ⟨congrArg Quiet.pending hreact, congrArg Quiet.timeBase hreact, congrArg Quiet.subMs hreact⟩

theorem sameClock_reqOrder (r z w m : Nat) : SameClock s (reqOrder r z w m s) := by
  refine request_keeps (P := SameClock s) (fun _ _ h => ⟨h.pending, h.timeBase, h.subMs⟩) _ _ _ _ ⟨rfl, rfl, rfl⟩ ?_
  rcases answerOrder_cases r z w m s with ⟨refusal, _, hanswer⟩ | ⟨o, body, _, hanswer⟩ <;> rw [hanswer]
  case inl => exact ⟨rfl, rfl, rfl⟩
  case inr => exact sameClock_react_admitOrder o

theorem sameClock_reqLogAck (n : Nat) : SameClock s (reqLogAck n s) := by
  refine request_keeps (P := SameClock s) (fun _ _ h => ⟨h.pending, h.timeBase, h.subMs⟩) _ _ _ _ ⟨rfl, rfl, rfl⟩ ?_
  unfold answerLogAck
  split <;> exact ⟨rfl, rfl, rfl⟩

/-! ### A transfer given by its bytes (R192) -/

/-- A transfer is one of the requests, a READ_REPLY or a refusal: what all of these keep, it keeps. -/
theorem panelTransfer_keeps {P : State → Prop} (hreply : ∀ f u, P u → P (u.onPlk f)) (hs : P s)
    (hkept : ∀ t, Kept s t → P t) (hlogAck : ∀ n, P (reqLogAck n s)) (horder : ∀ r z w m, P (reqOrder r z w m s))
    (bytes : List Byte) : P (panelTransfer bytes s) := by
  have hrequest (kind : Nat) (body : List Byte) : P (requestOf kind body s) := by
    unfold requestOf
    dsimp only
    split
    · exact hkept _ (kept_request _ _ _ answerStatus (.refl s))
    · exact hkept _ (kept_request _ _ _ answerNoticeRead (.of_till rfl rfl))
    · exact hkept _ (kept_request _ _ _ answerLogRead (.refl s))
    · exact hlogAck _
    · exact horder _ _ _ _
    · exact hkept _ (kept_reqCancel _)
    · exact hkept _ (kept_reqCleanRequest _)
    · exact hkept _ kept_reqCleanCancel
    · exact hkept _ kept_reqPromptDone
    · exact hkept _ kept_reqServiceEnter
    · exact hkept _ kept_reqServiceLeave
    · exact hkept _ kept_reqServiceReset
    · exact hkept _ (kept_reqServiceDrive _ _)
    · exact hkept _ (kept_request _ _ _ answerPartId (.refl s))
  unfold panelTransfer
  dsimp only
  repeat' split
  · exact hs
  · exact hreply _ _ hs
  · exact hkept _ (kept_readReply _ _ _)
  · exact hreply _ _ hs
  · exact hreply _ _ hs
  · exact hrequest _ _

/-! ### Resets -/

theorem steady_handoverOrders (l : List Order) : (handoverOrders l s).steady = s.steady := by
  induction l generalizing s with
  | nil => rfl
  | cons o rest ih =>
    refine ih.trans ?_
    split <;> rfl

theorem steady_handoverPayment : (handoverPayment s).steady = s.steady := by
  unfold handoverPayment
  repeat' split
  all_goals rfl

/-- The state of a warm reset before the blocks take their reset values. -/
theorem steady_handover : (freeRefunds (handoverPuck (handoverPayment (handoverOrders s.oru.queue s)))).steady = s.steady := by
  have hpuck (u : State) : (freeRefunds (handoverPuck u)).steady = u.steady := by
    simp only [freeRefunds, handoverPuck]
    split <;> rfl
  rw [hpuck, steady_handoverPayment, steady_handoverOrders]

theorem sameClock_warmReset : SameClock s (warmReset s) := by
  have hstop : (if s.cfl.loaded.isSome then stopLevels s else s).steady = s.steady := by
    split
    · exact steady_stopLevels
    · rfl
  obtain ⟨hpending, htime, hsub⟩ := SameClock.of_steady ((steady_handover (s := if s.cfl.loaded.isSome then stopLevels s else s)).trans hstop)
  exact ⟨hpending, htime, hsub⟩

theorem pending_resetAssert (intact : Bool) : (resetAssert intact s).pending = s.pending := by
  unfold resetAssert
  repeat' split
  · rfl
  · exact sameClock_warmReset.pending
  · rfl

theorem numbered_powerOn (b : Bool) : Numbered (powerOn b s) :=
  ⟨(by decide : 1 ≤ 1 ∧ 1 ≤ 255), (by decide : 0 < 65536)⟩

theorem numbered_resetAssert (intact : Bool) (h : Numbered s) : Numbered (resetAssert intact s) := by
  unfold resetAssert
  repeat' split
  · exact h
  · exact ⟨(by decide : 1 ≤ 1 ∧ 1 ≤ 255), (grew_warmReset (Grew.refl s.plg)).seq h.log⟩
  · exact numbered_powerOn true

/-! ### Every command -/

/-- A claim about every command: the ordinary ones together, the others one by one. -/
theorem of_ordinary {P : Instr → Prop} (hord : ∀ c, ordinary c = true → P c) (hsupply : ∀ b, P (.supplyUp b))
    (hreset : ∀ b, P (.resetNAssert b)) (hlogAck : ∀ n, P (.logAck n)) (horder : ∀ r z w m, P (.order r z w m))
    (hpanel : ∀ l, P (.panelTransferInvalid l)) (c : Instr) : P c := by
  cases hc : ordinary c with
  | true => exact hord c hc
  | false =>
    cases c
    case supplyUp => exact hsupply _
    case resetNAssert => exact hreset _
    case logAck => exact hlogAck _
    case order => exact horder _ _ _ _
    case panelTransferInvalid => exact hpanel _
    all_goals exact nomatch hc

theorem ledger_taken (c : Instr) (h : Ledger s) : Ledger (taken c s) := by
  obtain ⟨hlogAck, _, _, _, horder, _⟩ := ledger_requests h
  exact of_ordinary (P := fun c => Ledger (taken c s)) (fun c hc => (kept_taken hc).law h) (fun _ => ledger_reset _ _ _)
    (fun b => ledger_resetAssert b h) hlogAck (fun r z w m => horder _ _ _ _) (fun l => ledger_panel l h) c

theorem numbered_taken (c : Instr) (h : Numbered s) : Numbered (taken c s) := by
  have hreply : ∀ f (u : State), Numbered u → Numbered (u.onPlk f) := fun _ _ hu => ⟨hu.order, hu.log⟩
  have hlogAck (n : Nat) : Numbered (reqLogAck n s) := request_keeps hreply _ _ _ _ h (numbered_answerLogAck n h)
  have horder (r z w m : Nat) : Numbered (reqOrder r z w m s) := request_keeps hreply _ _ _ _ h (numbered_answerOrder r z w m h)
  exact of_ordinary (P := fun c => Numbered (taken c s)) (fun c hc => (kept_taken hc).numbered h)
    numbered_powerOn (fun b => numbered_resetAssert b h) hlogAck (fun _ _ _ _ => horder _ _ _ _)
    (fun l => panelTransfer_keeps hreply h (fun t ht => ht.numbered h) hlogAck horder l) c

theorem sameClock_panelTransfer (bytes : List Byte) : SameClock s (panelTransfer bytes s) :=
  panelTransfer_keeps (P := SameClock s) (fun _ _ h => ⟨h.pending, h.timeBase, h.subMs⟩) ⟨rfl, rfl, rfl⟩
    (fun _ h => .of_steady h.steady) sameClock_reqLogAck sameClock_reqOrder bytes

/-- Settles O4: `exec_taken` gives the next state; the steady part of the ordinary commands and `SameClock` of the others say what it
keeps. -/
theorem everyCommandAnswersNext : Obligations.EveryCommandAnswersNext := by
  intro c s
  refine ⟨taken c s, exec_taken c s, ?_⟩
  have whole {t : State} (h : SameClock s t) (p q : Prop) :
      t.pending = s.pending ∧ (p → q → t.timeBase = s.timeBase ∧ t.subMs = s.subMs) :=
    ⟨h.pending, fun _ _ => ⟨h.timeBase, h.subMs⟩⟩
  exact of_ordinary (P := fun c => (taken c s).pending = s.pending ∧ ((∀ b, c ≠ .supplyUp b) → (∀ b, c ≠ .resetNAssert b) →
      (taken c s).timeBase = s.timeBase ∧ (taken c s).subMs = s.subMs))
    (fun c hc => whole (.of_steady (kept_taken hc).steady) _ _)
    (fun b => ⟨rfl, fun h => absurd rfl (h b)⟩) (fun b => ⟨pending_resetAssert b, fun _ h => absurd rfl (h b)⟩)
    (fun n => whole (sameClock_reqLogAck n) _ _) (fun _ _ _ _ => whole (sameClock_reqOrder _ _ _ _) _ _)
    (fun l => whole (sameClock_panelTransfer l) _ _) c

/-- Settles O50: an ordinary command by `kept_taken`, an admission and a warm reset by the growth of their log; the others are
excluded. -/
theorem logGrowsAtItsTail : Obligations.LogGrowsAtItsTail := by
  intro c s t hexec hsupply hlogAck hpanel hreset
  obtain rfl := taken_of_exec hexec
  refine of_ordinary (P := fun d => d = c → ∃ new, (taken d s).plg.log = s.plg.log ++ new) ?ordinary ?supply ?reset ?logAck ?order
    ?panel c rfl
  case ordinary => exact fun d hd _ => (kept_taken hd).log.tail
  case supply => exact fun b hc => absurd hc.symm (hsupply b)
  case reset =>
    intro b hc
    show ∃ new, (resetAssert b s).plg.log = s.plg.log ++ new
    unfold resetAssert
    rw [if_pos (hreset b hc.symm)]
    split
    · exact ⟨[], (List.append_nil _).symm⟩
    · exact (grew_warmReset (Grew.refl s.plg)).tail
  case logAck => exact fun n hc => absurd hc.symm (hlogAck n)
  case order =>
    exact fun r z w m _ => (request_keeps (P := fun u => Grew s.plg u.plg) (fun _ _ h => h) 6 4 .unlessHalted _ (Grew.refl _)
      (grew_answerOrder r.toNat z.toNat w.toNat m.toNat)).tail
  case panel => exact fun l hc => absurd hc.symm (hpanel l)

/-! ### Every step -/

theorem ledger_pending (l : List Instr) (h : Ledger s) : Ledger { s with pending := l } := Ledger.of_till (s := s) rfl h

theorem numbered_pending (l : List Instr) (h : Numbered s) : Numbered { s with pending := l } := ⟨h.order, h.log⟩

theorem numbered_tick (h : Numbered s) : Numbered (tick s) := by
  obtain ⟨_, horu, _⟩ := tick_facts (s := s)
  exact (Grew.of_till till_tick (Grew.refl s.plg)).numbered (congrArg Oru.nextNumber horu) h

/-- Settles O59: a step is a command (`ledger_taken`, `numbered_taken`) or the passing of time, which leaves the till alone. -/
theorem moneyLawIsKept : Obligations.MoneyLawIsKept := by
  intro s t hstep
  unfold step at hstep
  split at hstep
  case h_1 =>
    obtain rfl := Host.Outcome.next.inj hstep
    exact ⟨fun h => ledger_pending _ (Ledger.of_till till_tick h), fun h => numbered_pending _ (numbered_tick h)⟩
  case h_2 c rest _ =>
    obtain rfl := taken_of_exec hstep
    exact ⟨fun h => ledger_taken c (ledger_pending rest h), fun h => numbered_taken c (numbered_pending rest h)⟩

end Sys2Proof.Proofs
end

section
/-! ## Steps, time, power-on and the receiver's line rows (R1 to R8, R15, R17, R202; log 1, 2) -/

namespace Sys2Proof.Proofs

open Sys2Proof Sys2Proof.Machine

variable {s : State}

/-- Settles O1: the queue's rest is what the record update leaves. -/
theorem stepTakesTheFrontCommand : Obligations.StepTakesTheFrontCommand := fun _ _ => rfl

/-! ### The passing of time -/

theorem add_flagCode (n : Nat) (b : Bool) : (if b then n + 1 else n) = n + flagCode b := by cases b <;> rfl

theorem units_tick (s : State) : (tick s).units = s.units + s.tickUnits := by
  have hdiv := Nat.div_add_mod (s.subMs + s.tickUnits) 576
  have htime : (tick s).units = (s.timeBase + (s.subMs + s.tickUnits) / 576) * 576 + (s.subMs + s.tickUnits) % 576 := by
    unfold tick
    dsimp only
    split <;> rfl
  rw [htime]
  unfold State.units
  omega

theorem subMs_tick_lt (s : State) : (tick s).subMs < 576 := by
  unfold tick
  dsimp only
  split <;> exact Nat.mod_lt _ (by decide)

theorem timeBase_tick (s : State) : (tick s).timeBase = s.timeBase + (s.subMs + s.tickUnits) / 576 := by
  unfold tick
  dsimp only
  split <;> rfl

/-- The line moves on while the blocks work, and stands still otherwise. -/
theorem lau_tick (s : State) : (tick s).lau = { s.lau with
    txBit := s.lau.txBit + flagCode (s.working && s.transmitting),
    idleTimer := s.lau.idleTimer + flagCode (s.working && s.lineIdle),
    guardCount := s.lau.guardCount + flagCode (s.working && s.guardRuns) } := by
  have hline : (if s.working then tickLine s else s).lau = { s.lau with
      txBit := s.lau.txBit + flagCode (s.working && s.transmitting),
      idleTimer := s.lau.idleTimer + flagCode (s.working && s.lineIdle),
      guardCount := s.lau.guardCount + flagCode (s.working && s.guardRuns) } := by
    cases s.working with
    | true => simp [tickLine, add_flagCode]
    | false => simp [flagCode]
  refine Eq.trans ?_ hline
  unfold tick
  dsimp only
  split <;> rfl

theorem dcu_tick (s : State) : (tick s).dcu =
    if s.timeBase / 5 < (tick s).timeBase / 5
    then { s.dcu with pumpPeriod := s.dcu.pump, grinderPeriod := if s.dcu.grinder then s.conf.grinderDuty else 0 }
    else s.dcu := by
  have hline : (if s.working then tickLine s else s).dcu = s.dcu ∧ (if s.working then tickLine s else s).conf = s.conf := by
    split <;> exact ⟨rfl, rfl⟩
  obtain ⟨hdcu, hconf⟩ := hline
  rw [timeBase_tick]
  unfold tick
  dsimp only
  split
  · rw [← hdcu, ← hconf]; rfl
  · exact hdcu

/-- Nothing but the time, the line and the duties passes with a tick. -/
theorem tick_rest (s : State) : tick s = { s with
    timeBase := (tick s).timeBase, subMs := (tick s).subMs, lau := (tick s).lau, dcu := (tick s).dcu } := by
  unfold tick tickLine latchDuties
  dsimp only
  repeat' split
  all_goals rfl

/-! ### The rows that fall due -/

theorem mem_whenDue {d : Bool} {a c : Instr} : c ∈ whenDue d a ↔ d = true ∧ c = a := by
  unfold whenDue
  split <;> simp_all

/-- A station's row is due if the station is one of the fifteen and its moment has come. -/
theorem mem_dueStations {due : State → Nat → Bool} {row : Nat → Instr} {c : Instr} :
    c ∈ s.dueStations due row ↔ ∃ n, isStation n = true ∧ due s n = true ∧ c = row n := by
  simp only [State.dueStations, List.mem_flatMap, List.mem_range, mem_whenDue]
  constructor
  · rintro ⟨k, hk, hdue, hc⟩
    exact ⟨k + 1, by simp [isStation]; omega, hdue, hc⟩
  · rintro ⟨n, hn, hdue, hc⟩
    simp only [isStation, Bool.and_eq_true, decide_eq_true_eq] at hn
    obtain ⟨k, rfl⟩ : ∃ k, n = k + 1 := ⟨n - 1, by omega⟩
    exact ⟨k, by omega, hdue, hc⟩

theorem mem_dueOrders {c : Instr} : c ∈ s.dueOrders ↔ ∃ n, s.dueTap n = true ∧ c = .tapDeadline n := by
  simp only [State.dueOrders, List.mem_flatMap, mem_whenDue]
  constructor
  · rintro ⟨o, _, hdue, hc⟩
    exact ⟨o.number, hdue, hc⟩
  · rintro ⟨n, hdue, rfl⟩
    have hheld := hdue
    simp only [State.dueTap, Bool.and_eq_true, List.any_eq_true, beq_iff_eq] at hheld
    obtain ⟨_, o, ho, ⟨rfl, _⟩, _⟩ := hheld
    exact ⟨o, ho, hdue, rfl⟩

/-- Exactly the timer rows whose moment has come are due. -/
theorem mem_dueRows_iff {c : Instr} (hwf : c.wf = true) : c ∈ s.dueRows ↔ s.timerDue c = some true := by
  simp only [State.dueRows, State.dueCounter, State.dueBrewing, State.duePayments, State.dueCleaning, State.dueShare, List.mem_append,
    mem_whenDue, mem_dueStations, mem_dueOrders]
  cases c
  case spinUpExpiry k | lossTimeExpiry k | timedRunEnd k => cases k <;> simp [State.timerDue]
  case leaseExpiry n | holdDeadlineExpiry n =>
    have hstation : isStation n = true := hwf
    simp [State.timerDue, hstation]
  all_goals simp [State.timerDue]

/-- Settles O2: the tick field by field, and the due rows by `mem_dueRows_iff`. -/
theorem idleStepPassesTime : Obligations.IdleStepPassesTime := by
  intro s hpending
  refine ⟨idle s, by rw [step, hpending], units_tick s, subMs_tick_lt s, lau_tick s, dcu_tick s, ?_, fun c hwf => ?_⟩
  · exact congrArg (fun t : State => { t with pending := (idle s).pending }) (tick_rest s)
  · have hqueue : (idle s).pending = (tick s).dueRows := by
      have hkept : (tick s).pending = [] := by rw [tick_rest]; exact hpending
      exact (congrArg (· ++ (tick s).dueRows) hkept).trans (List.nil_append _)
    have hsame : (idle s).timerDue c = (tick s).timerDue c := by cases c <;> rfl
    rw [hqueue, hsame]
    exact mem_dueRows_iff hwf

/-! ### Power-on -/

theorem locks_reset : Interlocks State.reset := by constructor <;> decide

theorem inert_reset : Inert State.reset := by constructor <;> decide

theorem getElem?_replicate_getD {α : Type} (size place : Nat) (a : α) : (List.replicate size a)[place]?.getD a = a := by
  rw [List.getElem?_replicate]
  split <;> rfl

/-- The table of a reset holds an absent entry for every station. -/
theorem entry_reset (n : Nat) : State.reset.entry n = ShareEntry.absent := by
  unfold State.entry
  split
  · rfl
  · exact (List.getD_eq_getElem?_getD ..).trans (getElem?_replicate_getD 15 (n - 1) ShareEntry.absent)

/-- Settles O5: the table by `entry_reset`, the invariants by their fields, every other value as the reset state spells it. -/
theorem resetLeavesTheStatedValues : Obligations.ResetLeavesTheStatedValues := by
  have hentry (n : Nat) : (State.reset.entry n).live = false ∧ entryTotal (State.reset.entry n) = 0
      ∧ (State.reset.entry n).held = none ∧ (State.reset.entry n).clean = .none ∧ (State.reset.entry n).heardSinceStale = true := by
    rw [entry_reset]
    decide
  have hnumbered : Numbered State.reset := ⟨by decide, by decide⟩
  unfold Obligations.ResetLeavesTheStatedValues
  repeat' apply And.intro
  all_goals first
    | rfl
    | exact hentry
    | exact ledger_reset _ _ _
    | exact hnumbered
    | exact locks_reset
    | exact inert_reset

/-! ### The reset line -/

/-- Settles O6: each row is its level test. -/
theorem powerOnAndTheResetLine : Obligations.PowerOnAndTheResetLine := by
  intro s
  refine ⟨fun b => rfl, fun intact hline hlost => ?_, fun intact hline => ?_, fun hline => ?_, fun hline => ?_⟩
  · exact congrArg Host.Outcome.next (show resetAssert intact s = powerOn true s by simp [resetAssert, hline, hlost])
  · exact congrArg Host.Outcome.next (show resetAssert intact s = s from if_pos hline)
  · exact congrArg Host.Outcome.next (show resetNegate s = _ from if_pos hline)
  · exact congrArg Host.Outcome.next (show resetNegate s = s from if_neg (by simp [hline]))

/-! ### The receiver's rows for the level of the line -/

theorem lineBreak_of_hunt (h : s.lau.receiver = .hunt) : lineBreak s =
    (setLine (s.pins.lineLow || !s.transmitting) s).onLau fun l => { l with receiver := .sync false, idleTimer := 0, guardCount := 0 } :=
  if_pos h

theorem syncOpen_of_sync (h : s.lau.receiver = .sync false) :
    syncOpen s = (setLine false s).onLau fun l => { l with receiver := .sync true } := if_pos h

theorem syncClose_of_window (h : s.lau.receiver = .sync true) :
    syncClose s = (toHunt s).onLau fun l => { l with guardCount := s.lau.guardCount } := if_pos h

theorem lineLow_of_hunt (still : Bool) (h : s.lau.receiver = .hunt) : lineLow still s = restartIdle (setLine still s) := by
  simp [lineLow, h]

theorem lineLow_of_off (still : Bool) (h : s.lau.receiver = .off) : lineLow still s = setLine still s := by simp [lineLow, h]

theorem lineLow_of_frame (still : Bool) (hhunt : s.lau.receiver ≠ .hunt) (hoff : s.lau.receiver ≠ .off) :
    lineLow still s = (setLine still s).onLau fun l => { l with guardCount := 0 } := by
  unfold lineLow
  split
  · contradiction
  · contradiction
  all_goals rfl

/-- Settles O9: each row by its rule for the receiver's state. -/
theorem receiverFollowsTheLine : Obligations.ReceiverFollowsTheLine := by
  intro s level
  have next {t u : State} (h : t = u) : (Host.Outcome.next t : Out) = .next u := congrArg _ h
  refine ⟨fun h => next (lineBreak_of_hunt h), fun h => next (if_neg h), fun h => next (syncOpen_of_sync h),
    fun h => next (if_neg h), fun h => next (syncClose_of_window h), fun h => next (if_neg h), fun hlow => ?_,
    fun still => ⟨fun h => next (lineLow_of_hunt still h), fun h => next (lineLow_of_off still h),
      fun hhunt hoff => next (lineLow_of_frame still hhunt hoff)⟩⟩
  simp [State.lineIdle, State.guardRuns, hlow]

end Sys2Proof.Proofs
end

section
/-! ## The receiver: characters, damage, complete frames (R2, R7 to R11, R17, R41)

`rxTake` goes by the receiver's state; each state has a rule here. -/

namespace Sys2Proof.Proofs

open Sys2Proof Sys2Proof.Machine

variable {s t : State}

/-! ### Events of a working, settled station -/

theorem next_whenWorking (hw : s.working = true) (f : State → Eff) :
    (Host.Outcome.next (whenWorking f s) : Out) = .next (react (f s)) := congrArg _ (whenWorking_of_working hw f)

/-- An event without reports that the closing reports do not see leaves exactly its own writes. -/
theorem next_whenWorking_calm (hw : s.working = true) (hs : s.Settled) {f : State → Eff} (hf : f s = (t, []))
    (hcalm : t.calm = s.calm) : (Host.Outcome.next (whenWorking f s) : Out) = .next t := by
  rw [next_whenWorking hw, hf, react_calm hs hcalm]

theorem next_onDue {d : Bool} (h : d = true) (f : State → Eff) : (Host.Outcome.next (onDue d f s) : Out) = .next (react (f s)) :=
  congrArg _ (onDue_of_due h f)

theorem next_onDue_calm {d : Bool} (h : d = true) (hs : s.Settled) {f : State → Eff} (hf : f s = (t, []))
    (hcalm : t.calm = s.calm) : (Host.Outcome.next (onDue d f s) : Out) = .next t := by
  rw [next_onDue h, hf, react_calm hs hcalm]

theorem next_react_calm (hs : s.Settled) {e : Eff} (he : e = (t, [])) (hcalm : t.calm = s.calm) :
    (Host.Outcome.next (react e) : Out) = .next t := by
  rw [he, react_calm hs hcalm]

/-! ### Characters -/

theorem exec_rxCharacter (hw : s.working = true) (d : Byte) (flag err : Bool) :
    exec (.rxCharacter d flag err) s = .next (react (rxCharacter d flag err s)) := by
  show (Host.Outcome.next (if s.working then whenWorking (rxCharacter d flag err) s else setLine err s) : Out) = _
  rw [if_pos hw, whenWorking_of_working hw]

theorem exec_rxCharacter_calm (hw : s.working = true) (hs : s.Settled) {d : Byte} {flag err : Bool}
    (hf : rxCharacter d flag err s = (t, [])) (hcalm : t.calm = s.calm) : exec (.rxCharacter d flag err) s = .next t := by
  rw [exec_rxCharacter hw, hf, react_calm hs hcalm]

section Receiver

variable {d : Byte} {flag err w : Bool} {f : RxFrame}

/-- In HUNT a character restarts the idle interval, as a return to HUNT does. -/
theorem rxCharacter_of_hunt (h : s.lau.receiver = .hunt) : rxCharacter d flag err s = (toHunt (setLine err s), []) := by
  simp [rxCharacter, rxTake, setLine, toHunt, restartIdle, State.onLau, h]

theorem rxCharacter_of_sync (h : s.lau.receiver = .sync w) : rxCharacter d flag err s =
    (if err || !flag then toHunt (setLine err s) else rxHeader d (setLine err s), []) := by
  simp [rxCharacter, rxTake, setLine, h]

theorem rxCharacter_of_body (h : s.lau.receiver = .body f) : rxCharacter d flag err s =
    if err || flag then damaged (setLine err s) else rxBody f d (setLine err s) := by
  simp [rxCharacter, rxTake, setLine, h]

theorem rxCharacter_of_check (h : s.lau.receiver = .check f) : rxCharacter d flag err s =
    if err || flag then damaged (setLine err s) else rxCheck f d (setLine err s) := by
  simp [rxCharacter, rxTake, setLine, h]

/-- A header that names no kind or the station 0 is refused (R8). -/
theorem rxHeader_of_bad (h : frameKindOfCode (d.toNat / 16) = none ∨ d.toNat % 16 = 0) : rxHeader d s = toHunt s := by
  unfold rxHeader
  rcases h with h | h
  · simp [h]
  · simp only [h]
    split <;> rfl

theorem rxHeader_of_good {kind : FrameKind} (hkind : frameKindOfCode (d.toNat / 16) = some kind) (hsender : d.toNat % 16 ≠ 0) :
    rxHeader d s = s.onLau fun l =>
      { l with receiver := .body { kind := kind, sender := d.toNat % 16, length := none, body := [], check := [] } } := by
  simp [rxHeader, hkind, hsender]

theorem rxBody_length_over (hlen : f.length = none) (hd : 20 < d.toNat) : rxBody f d s = damaged s := by simp [rxBody, hlen, hd]

theorem rxBody_length (hlen : f.length = none) (hd : d.toNat ≤ 20) : rxBody f d s = (s.onLau fun l => { l with
    receiver := if d.toNat = 0 then .check { f with length := some d.toNat } else .body { f with length := some d.toNat } }, []) := by
  simp [rxBody, hlen, Nat.not_lt.mpr hd]

theorem rxBody_data {n : Nat} (hlen : f.length = some n) : rxBody f d s = (s.onLau fun l => { l with
    receiver := if f.body.length + 1 < n then .body { f with body := f.body ++ [d] }
      else .check { f with body := f.body ++ [d] } }, []) := by
  simp [rxBody, hlen]

theorem rxCheck_first (hcheck : f.check = []) : rxCheck f d s = (s.onLau fun l => { l with
    receiver := .check { f with check := [d] } }, []) := by
  simp [rxCheck, hcheck]

theorem rxCheck_second (hcheck : f.check.length = 1) : rxCheck f d s = rxComplete { f with check := f.check ++ [d] } s := by
  simp [rxCheck, hcheck]

end Receiver

/-- Settles O10: the rule of the receiver's state, then the rule of the header, the length, the body or the check. -/
theorem charactersBuildTheFrame : Obligations.CharactersBuildTheFrame := by
  intro s d hw hs line hunt
  refine ⟨fun w flag err hsync hbad => ?_, fun w kind hsync hkind hsender => ?_, fun f hbody hlen hzero => ?_,
    fun f hbody hlen hpos hle => ?_, fun f n hbody hlen hmore => ?_, fun f n hbody hlen hlast => ?_, fun f hcheck hfirst => ?_,
    fun flag err hhunt => exec_rxCharacter_calm hw hs (rxCharacter_of_hunt hhunt) rfl⟩
  · refine exec_rxCharacter_calm hw hs ((rxCharacter_of_sync hsync).trans ?_) rfl
    rcases hbad with rfl | rfl | hbad
    · rfl
    · cases err <;> rfl
    · rw [rxHeader_of_bad hbad, ite_self]; rfl
  · exact exec_rxCharacter_calm hw hs ((rxCharacter_of_sync hsync).trans (congrArg (·, []) (rxHeader_of_good hkind hsender))) rfl
  · refine exec_rxCharacter_calm hw hs ((rxCharacter_of_body hbody).trans ((rxBody_length hlen (by omega)).trans ?_)) rfl
    simp only [hzero, if_true]
    rfl
  · refine exec_rxCharacter_calm hw hs ((rxCharacter_of_body hbody).trans ((rxBody_length hlen hle).trans ?_)) rfl
    rw [if_neg (by omega)]
    rfl
  · refine exec_rxCharacter_calm hw hs ((rxCharacter_of_body hbody).trans ((rxBody_data hlen).trans ?_)) rfl
    rw [if_pos hmore]
    rfl
  · refine exec_rxCharacter_calm hw hs ((rxCharacter_of_body hbody).trans ((rxBody_data hlen).trans ?_)) rfl
    rw [if_neg (by omega)]
    rfl
  · exact exec_rxCharacter_calm hw hs ((rxCharacter_of_check hcheck).trans (rxCheck_first hfirst)) rfl

/-! ### Offers of a CLAIM -/

/-- An offer of a CLAIM changes the transmit queue alone: it always finds room (R12). -/
theorem offerClaim_onLau (mayRaise : Bool) (s : State) :
    ∃ q, offerFrame (.claim mayRaise) s = s.onLau fun l => { l with queue := q } := by
  unfold offerFrame
  split
  · exact ⟨s.lau.queue, rfl⟩
  · split <;> exact ⟨_, rfl⟩

theorem offerPlainClaim_onLau (s : State) : ∃ q, offerPlainClaim s = s.onLau fun l => { l with queue := q } :=
  offerClaim_onLau false s

/-! ### Damage (R9, R35, R41) -/

/-- The state of the line at a damage: HUNT, with the guard set in a new interval. -/
theorem toHunt_setGuard (low : Bool) : toHunt (setGuard (setLine low s)) =
    (s.onPins fun p => { p with lineLow := low }).onLau fun l =>
      { l with receiver := .hunt, guard := true, intervalGuarded := true, idleTimer := 0, guardCount := 0 } := rfl

/-- A GUARDED raise is withdrawn with its PLAIN CLAIM; another one, and none, is left. -/
theorem stuWithdraw_fst : (stuWithdraw s).1 = if s.stu.pending.any PendingRaise.guarded
    then offerPlainClaim (s.onStu fun v => { v with posted := v.confirmed, pending := none, deniedAt := some s.timeBase }) else s := by
  unfold stuWithdraw
  cases s.stu.pending with
  | none => rfl
  | some p => cases hp : p.guarded <;> simp [hp]

/-- What was held while the raise was pending acts, and a wish that the raise had left out is tried again. -/
theorem stuWithdraw_snd : (stuWithdraw s).2 = if s.stu.pending.any PendingRaise.guarded
    then .stuLower :: ((if s.stu.pending.any PendingRaise.heldRise then [.stuRise .any] else [])
      ++ (if s.stu.pending.any (fun p => p.heldRetry || (s.wishes.base && !p.target.base) || (s.wishes.grind && !p.target.grind)
          || (s.wishes.clean && !p.target.clean)
          || (heatCode p.target.heat < heatCode s.wishes.heat && heatCode p.target.heat ≤ heatCode s.stu.confirmed.heat))
        then [.stuRetry] else [])) else [] := by
  unfold stuWithdraw
  cases s.stu.pending with
  | none => rfl
  | some p => cases hp : p.guarded <;> simp [hp, State.leftOut, Bool.or_assoc]

theorem staleMark_eq (full : Bool) : staleMark full s =
    (let marked := s.onStu fun v => { v with
      stale := true, staleClearTime := s.timeBase + s.conf.leaseS * 1000, awaited := s.peers.map Prod.fst,
      fullLease := v.fullLease || full, table := v.table.map fun e => if e.live then { e with heardSinceStale := false } else e }
     if s.stu.lastJoinPosted.any fun posted => s.timeBase < posted + s.conf.leaseS * 1000 then marked else offerFrame .join marked) := by
  unfold staleMark
  cases s.stu.lastJoinPosted <;> simp

/-- A damage reported to the STU: the withdrawal, then the marking. -/
theorem damaged_eq : damaged s = (staleMark false (stuWithdraw (toHunt (setGuard s))).1, (stuWithdraw (toHunt (setGuard s))).2) := rfl

/-- The events that damage a synchronised frame, with the level of the line that each shows. -/
theorem exec_of_damage (hw : s.working = true) {f : RxFrame} {c : Instr} {low : Bool}
    (h : ((s.lau.receiver = .body f ∨ s.lau.receiver = .check f) ∧ ((c = .rxIdleTimeout ∧ low = false)
          ∨ (∃ d flag, c = .rxCharacter d flag low ∧ (low = true ∨ flag = true))))
      ∨ (s.lau.receiver = .body f ∧ f.length = none ∧ low = false ∧ ∃ d : Byte, 20 < d.toNat ∧ c = .rxCharacter d false low)
      ∨ (s.lau.receiver = .check f ∧ f.check.length = 1 ∧ low = false
          ∧ ∃ d, rxFrame { f with check := f.check ++ [d] } = none ∧ c = .rxCharacter d false low)) :
    exec c s = .next (react (damaged (setLine low s))) := by
  rcases h with ⟨hrec, ⟨rfl, rfl⟩ | ⟨d, flag, rfl, hbad⟩⟩ | ⟨hbody, hlen, rfl, d, hd, rfl⟩ | ⟨hcheck, hone, rfl, d, hnone, rfl⟩
  · refine (next_whenWorking hw rxIdle).trans (congrArg (fun e => Host.Outcome.next (react e)) ?_)
    rcases hrec with h | h <;> simp [rxIdle, h]
  · refine (exec_rxCharacter hw d flag low).trans (congrArg (fun e => Host.Outcome.next (react e)) ?_)
    have hbits : (low || flag) = true := by simpa using hbad
    rcases hrec with h | h
    · rw [rxCharacter_of_body h, if_pos hbits]
    · rw [rxCharacter_of_check h, if_pos hbits]
  · rw [exec_rxCharacter hw, rxCharacter_of_body hbody, if_neg (by simp), rxBody_length_over hlen hd]
  · rw [exec_rxCharacter hw, rxCharacter_of_check hcheck, if_neg (by simp), rxCheck_second hone, rxComplete, hnone]

/-- Settles O11: every damage is `damaged` at the level shown, and `damaged` is the withdrawal followed by the marking. -/
theorem damagedFramesMarkTheTableStale : Obligations.DamagedFramesMarkTheTableStale := by
  intro s f hw
  refine ⟨?_, fun hquiet hs => ?_⟩
  · intro c low hdamage hunting guarded w retries withdrawn marked joined
    have hfst : (stuWithdraw hunting).1 = withdrawn := stuWithdraw_fst
    have hsnd : (stuWithdraw hunting).2 = if guarded
        then .stuLower :: ((if s.stu.pending.any PendingRaise.heldRise then [.stuRise .any] else [])
          ++ (if retries then [.stuRetry] else [])) else [] := stuWithdraw_snd
    have hmark : staleMark false withdrawn = if joined then marked else offerFrame .join marked := by
      obtain ⟨htime, hconf, hpeers, hjoined⟩ : withdrawn.timeBase = s.timeBase ∧ withdrawn.conf = s.conf
          ∧ withdrawn.peers = s.peers ∧ withdrawn.stu.lastJoinPosted = s.stu.lastJoinPosted := by
        obtain ⟨q, hq⟩ := offerPlainClaim_onLau
          (hunting.onStu fun v => { v with posted := v.confirmed, pending := none, deniedAt := some s.timeBase })
        simp only [withdrawn, hq]
        split <;> exact ⟨rfl, rfl, rfl, rfl⟩
      rw [staleMark_eq, htime, hconf, hpeers, hjoined]
      simp only [Bool.or_false]
      rfl
    rw [exec_of_damage hw hdamage, damaged_eq, ← hmark, ← hfst, ← hsnd]
    rfl
  · refine next_whenWorking_calm hw hs ?_ rfl
    rcases hquiet with h | h | ⟨w, h⟩ <;> simp [rxIdle, h]

end Sys2Proof.Proofs
end

section
/-! ## Complete frames and access to the line (R10, R11, R15, R16, R21, R31) -/

namespace Sys2Proof.Proofs

open Sys2Proof Sys2Proof.Machine

variable {s t : State}

/-! ### Complete frames -/

theorem frameEnd_eq (f : Frame) (s : State) : frameEnd f s = s.afterFrame (guardsRaise f) := by
  unfold frameEnd
  cases guardsRaise f with
  | true => simp [State.afterFrame, setGuard, toHunt, restartIdle, setLine, State.onLau, State.onPins]
  | false => simp [State.afterFrame, toHunt, restartIdle, setLine, State.onLau, State.onPins]

/-- The end of a frame shows the line high, so a high level shown before it leaves no trace. -/
theorem frameEnd_setLine (f : Frame) (s : State) : frameEnd f (setLine false s) = frameEnd f s := rfl

/-- While this station transmits, a slot of the queue is on the line. -/
theorem ownFrame_of_transmitting (h : s.transmitting = true) : ∃ o f, s.ownFrame = some (o, f) := by
  simp only [State.transmitting, List.any_eq_true, Option.isSome_iff_exists] at h
  obtain ⟨t, ht, f, hf⟩ := h
  have hsome : s.ownFrame.isSome = true := by
    simp only [State.ownFrame, List.findSome?_isSome_iff, Option.isSome_map]
    exact ⟨t, ht, by simp [hf]⟩
  obtain ⟨⟨o, f⟩, hown⟩ := Option.isSome_iff_exists.mp hsome
  exact ⟨o, f, hown⟩

theorem framePosted_of_own {o : Offer} {f : Sent} (h : s.ownFrame = some (o, f)) : framePosted s =
    (let s1 := frameEnd f.frame (s.onLau fun l => { l with queue := postedQueue l.queue })
     let e := notePosted o f.seq s1
     ((rejoin e.1).1, e.2 ++ (rejoin e.1).2)) := by
  simp only [framePosted, h]

theorem framePosted_setLine (h : s.transmitting = true) : framePosted (setLine false s) = framePosted s := by
  obtain ⟨o, f, hown⟩ := ownFrame_of_transmitting h
  rw [framePosted_of_own hown, framePosted_of_own (s := setLine false s) hown]
  rfl

theorem deliver_setLine (n : Nat) (f : Frame) (s : State) : deliver n f (setLine false s) = deliver n f s := rfl

/-- The second check character of a frame that passes every test. -/
theorem exec_of_complete (hw : s.working = true) {f : RxFrame} {d : Byte} {g : Frame} (hcheck : s.lau.receiver = .check f)
    (hone : f.check.length = 1) (hframe : rxFrame { f with check := f.check ++ [d] } = some g) :
    exec (.rxCharacter d false false) s = .next (react
      (if f.sender = s.conf.station ∧ s.transmitting = true then framePosted (setLine false s)
        else deliver f.sender g (setLine false s))) := by
  rw [exec_rxCharacter hw, rxCharacter_of_check hcheck, if_neg (by simp), rxCheck_second hone, rxComplete, hframe]
  rfl

theorem exec_deliveredRow (hw : s.working = true) (n : Nat) (f : Frame) :
    exec (deliveredRow n f) s = .next (react (deliver n f s)) := by
  cases f <;> exact next_whenWorking hw _

theorem exec_sameStationFrame (hw : s.working = true) (f : Frame) :
    exec (.sameStationFrame f) s = .next (react (sameStation f s, [])) :=
  next_whenWorking hw (fun s => (sameStation f s, []))

theorem deliver_own (f : Frame) : deliver s.conf.station f s = (sameStation f s, []) := if_pos rfl

theorem sameStation_eq (f : Frame) : sameStation f s =
    if s.lau.sameStationArmed then postNotice .lineTrouble none 3 (frameKindCode (frameKind f)) 0
      ((s.afterFrame (guardsRaise f)).onLau fun l => { l with sameStationArmed := false })
    else s.afterFrame (guardsRaise f) := by
  simp only [sameStation, frameEnd_eq]

theorem calm_sameStation (f : Frame) : (sameStation f s).calm = s.calm := by
  rw [sameStation_eq]
  split <;> simp

/-- Settles O12: `exec_of_complete` with the sender and the transmission, and the rule of `sameStation`. -/
theorem completeFramesEndAtTheLastCheckCharacter : Obligations.CompleteFramesEndAtTheLastCheckCharacter := by
  intro s hw
  refine ⟨fun f d g hcheck hone hframe => ⟨fun hother => ?_, fun hown hsending => ?_, fun hown hsilent => ?_⟩, fun hs f => ?_⟩
  · rw [exec_of_complete hw hcheck hone hframe, if_neg (fun h => hother h.1), exec_deliveredRow hw, deliver_setLine]
  · rw [exec_of_complete hw hcheck hone hframe, if_pos ⟨hown, hsending⟩, framePosted_setLine hsending]
    exact (next_whenWorking hw framePosted).symm
  · rw [exec_of_complete hw hcheck hone hframe, if_neg (by simp [hsilent]), deliver_setLine, hown, deliver_own,
      exec_sameStationFrame hw]
  · have hsame : exec (.sameStationFrame f) s = .next (sameStation f s) := by
      rw [exec_sameStationFrame hw, react_calm hs (calm_sameStation f)]
    refine ⟨fun harmed => ?_, fun hspent => ?_, ?_⟩
    · rw [hsame, sameStation_eq, if_pos harmed]
    · rw [hsame, sameStation_eq, if_neg (by simp [hspent])]
    · rw [exec_deliveredRow hw, deliver_own, exec_sameStationFrame hw]

/-! ### Access (R15, R16) -/

theorem transmitting_eq_false_iff : s.transmitting = false ↔ ∀ t ∈ s.lau.queue, t.sent = none := by
  simp [State.transmitting]

theorem gap_eq (t : TxSlot) : s.gap t = 2 * s.conf.station + 12 * t.attempts
    + (if offerKind t.offer = .dispute then 6 else if s.lau.intervalGuarded then 208 else 48) := by
  unfold State.gap
  cases offerKind t.offer
  all_goals simp only [reduceCtorEq, if_false, if_true]
  all_goals omega

theorem winner_eq_some_iff {k : Nat} : s.winner = some k ↔ s.lau.receiver = .hunt ∧ (∀ t ∈ s.lau.queue, t.sent = none)
    ∧ (∃ t, s.lau.queue[k]? = some t ∧ s.gap t ≤ s.lau.idleTimer)
    ∧ ∀ j, j < k → ∀ t, s.lau.queue[j]? = some t → s.lau.idleTimer < s.gap t := by
  rw [← transmitting_eq_false_iff]
  unfold State.winner
  split
  next h =>
    simp only [Bool.or_eq_true, bne_iff_ne, ne_eq] at h
    rcases h with h | h <;> simp [h]
  next h =>
    simp only [Bool.or_eq_true, bne_iff_ne, ne_eq, not_or, Bool.not_eq_true, Classical.not_not] at h
    obtain ⟨hsilent, hhunt⟩ := h
    simp only [hsilent, hhunt, true_and, List.findIdx?_eq_some_iff_getElem, decide_eq_true_eq,
      Nat.not_le, List.getElem?_eq_some_iff]
    constructor
    · rintro ⟨hk, hgap, hbefore⟩
      refine ⟨⟨_, ⟨hk, rfl⟩, hgap⟩, ?_⟩
      rintro j hj t ⟨_, rfl⟩
      exact hbefore j hj
    · rintro ⟨⟨t, ⟨hk, rfl⟩, hgap⟩, hbefore⟩
      exact ⟨hk, hgap, fun j hj => hbefore j hj _ ⟨_, rfl⟩⟩

/-- Settles O13: the search of `winner`, and the gap by kind. -/
theorem accessFollowsTheGaps : Obligations.AccessFollowsTheGaps := fun _ _ => ⟨winner_eq_some_iff, gap_eq⟩

end Sys2Proof.Proofs
end

section
/-! ## Frames sent, posted and failed (R6, R13, R16, R18, R19, R21, R31, R32, R33, R47, R50, R147) -/

namespace Sys2Proof.Proofs

open Sys2Proof Sys2Proof.Machine

variable {s t : State}

/-! ### Access -/

section Access

variable {k : Nat} {t : TxSlot} {u : State} {f : Frame} {acts : List Act}

theorem lauAccess_of_winner (hwinner : s.winner = some k) (hslot : s.lau.queue[k]? = some t) : lauAccess s =
    (match (answerOffer t.offer s).2.1 with
     | some f => (beginFrame k f (answerOffer t.offer s).1, (answerOffer t.offer s).2.2)
     | none => (withdrawSlot k (answerOffer t.offer s).1, (answerOffer t.offer s).2.2 ++ [.lauAccess])) := by
  simp only [lauAccess, hwinner, accessAt, hslot] <;> rfl

/-- The frame that the originator supplies goes out. -/
theorem lauAccess_sends (hwinner : s.winner = some k) (hslot : s.lau.queue[k]? = some t)
    (hanswer : answerOffer t.offer s = (u, some f, acts)) : lauAccess s = (beginFrame k f u, acts) := by
  rw [lauAccess_of_winner hwinner hslot, hanswer]

/-- A frame with nothing left to say leaves the queue, and the rest of it is examined. -/
theorem lauAccess_withdraws (hwinner : s.winner = some k) (hslot : s.lau.queue[k]? = some t)
    (hanswer : answerOffer t.offer s = (u, none, acts)) : lauAccess s = (withdrawSlot k u, acts ++ [.lauAccess]) := by
  rw [lauAccess_of_winner hwinner hslot, hanswer]

end Access

theorem composeClaim_plain {mayRaise : Bool}
    (h : mayRaise = false ∨ s.stu.stale = true ∨ s.stu.pending.isSome = true ∨ s.stu.lineState = .isolated) :
    composeClaim mayRaise s = (s, claimBody s s.stu.posted false, []) := by
  refine if_pos ?_
  rcases h with h | h | h | h <;> simp [h]

theorem answerTake_of_over {badge : Badge} {tag : Nat} (h : (s.pyu.payment.any fun p => p.tag == tag) = false) :
    answerTake badge tag s = (none, []) := by
  unfold answerTake
  cases hp : s.pyu.payment with
  | none => rfl
  | some p =>
    have htag : p.tag ≠ tag := by simpa [hp] using h
    exact if_pos htag

theorem answerTake_of_payment {badge : Badge} {tag : Nat} {p : Payment} (hp : s.pyu.payment = some p) (htag : p.tag = tag) :
    answerTake badge tag s =
      if s.peerHolds badge 0 then (none, if p.hold = .queued then [.pyuEndUnpaid .badgeBusy] else [])
      else (some (.hold { seq := s.lau.nextSeq, take := true, badge := badge, lease := s.conf.holdLeaseS }), []) := by
  simp [answerTake, hp, htag]

/-- Settles O14: the originator's answer by the kind of the offer, then `lauAccess_sends` or `lauAccess_withdraws`. -/
theorem accessSendsOrWithdraws : Obligations.AccessSendsOrWithdraws := by
  intro s k t hdue hwinner hslot hs withdrawn sends
  have sent {f : Frame} (h : answerOffer t.offer s = (s, some f, [])) : exec .accessWon s = .next (sends f) :=
    next_onDue_calm hdue hs (lauAccess_sends hwinner hslot h) rfl
  have withdraws {acts : List Act} (h : answerOffer t.offer s = (s, none, acts)) :
      exec .accessWon s = .next (react (withdrawn, acts ++ [.lauAccess])) := by
    refine (next_onDue hdue lauAccess).trans ?_
    rw [lauAccess_withdraws hwinner hslot h]
    rfl
  refine ⟨fun ho => ?_, fun m ho hplain => ?_, fun ho hshort => ?_, fun a q r ho hfresh => ?_, fun b g p ho hp htag hfree => ?_,
    fun b ho => ?_, fun ho hshort => ?_, fun a q r ho hstale => ?_, fun b g ho hover => ?_, fun b g p ho hp htag hheld => ?_⟩
  · exact sent (by rw [ho]; rfl)
  · exact sent (by rw [ho, answerOffer, composeClaim_plain hplain])
  · exact sent (by rw [ho]; exact if_neg (by omega))
  · exact sent (by rw [ho]; exact if_neg (by simp [hfresh]))
  · exact sent (by rw [ho, answerOffer, answerTake_of_payment hp htag, hfree]; rfl)
  · exact sent (by rw [ho]; rfl)
  · exact withdraws (by rw [ho]; exact if_pos hshort)
  · exact withdraws (by rw [ho]; exact if_pos hstale)
  · exact withdraws (by rw [ho, answerOffer, answerTake_of_over hover])
  · exact withdraws (by rw [ho, answerOffer, answerTake_of_payment hp htag, hheld]; rfl)

/-- The composing of a CLAIM that may raise, its two cases in one (R31, R32). -/
theorem composeClaim_mayRaise (hstale : s.stu.stale = false) (hpending : s.stu.pending = none)
    (hline : s.stu.lineState ≠ .isolated) : composeClaim true s =
    (s.onStu fun v => { v with
      deniedAt := if raisesOver s.wishes s.composed then some s.timeBase else none,
      confirmed := compMeet s.stu.confirmed s.composed,
      posted := if raisesOver s.composed s.stu.posted then compMeet v.posted s.composed else s.composed,
      pending := if raisesOver s.composed s.stu.posted
        then some { target := s.composed, seq := s.lau.nextSeq, guarded := false, heldRise := false, heldRetry := false } else none },
     claimBody s s.composed (raisesOver s.composed s.stu.posted),
     if compMeet s.stu.confirmed s.composed = s.stu.confirmed then [] else [.claimReport]) := by
  unfold composeClaim
  rw [if_neg (by simp [hstale, hpending, hline])]
  cases hraise : raisesOver s.composed s.stu.posted with
  | true => simp [hraise]
  | false => simp [hraise, State.onStu, hpending]

/-- Settles O15: the composing by `composeClaim_mayRaise`, the sending by `lauAccess_sends`. -/
theorem accessComposesTheClaim : Obligations.AccessComposesTheClaim := by
  intro s k t hdue hwinner hslot hoffer hstale hpending hline target raise confirmed u
  refine (next_onDue hdue lauAccess).trans ?_
  have hanswer : answerOffer t.offer s = (u, some (.claim (claimBody s target raise)),
      if confirmed = s.stu.confirmed then [] else [.claimReport]) := by
    rw [hoffer, answerOffer, composeClaim_mayRaise hstale hpending hline]
  rw [lauAccess_sends hwinner hslot hanswer]
  rfl

/-! ### Collisions -/

theorem onStu_eq_self {f : Stu → Stu} (h : f s.stu = s.stu) : s.onStu f = s := by
  show { s with stu := f s.stu } = s
  rw [h]

/-- The own claim of which neither the raise nor the denial changes. -/
theorem stu_of_claim_kept {u : Stu} {pending : Option PendingRaise} {deniedAt : Option Nat} (hpending : pending = u.pending)
    (hdenied : deniedAt = u.deniedAt) : { u with pending := pending, deniedAt := deniedAt } = u := by
  rw [hpending, hdenied]

theorem filter_kept {p : PendingRaise → Bool} (o : Option PendingRaise) (h : ∀ r, o = some r → p r = true) : o.filter p = o := by
  cases o with
  | none => rfl
  | some r => rw [Option.filter_some, if_pos (h r rfl)]

/-- A raise still QUEUED under the frame that failed is discarded; another one, and none, stays (R33). -/
theorem stuClaimFailed_eq (seq : Nat) (givenUp : Bool) (s : State) : stuClaimFailed seq givenUp s = s.onStu fun v => { v with
    pending := v.pending.filter fun p => !(p.seq == seq && !p.guarded),
    deniedAt := if givenUp && (v.pending.any fun p => p.seq == seq && !p.guarded) then some s.timeBase else v.deniedAt } := by
  unfold stuClaimFailed
  cases hp : s.stu.pending with
  | none => exact (onStu_eq_self (stu_of_claim_kept (by simp [hp]) (by simp [hp]))).symm
  | some p =>
    dsimp only
    split
    next h => simp [State.onStu, hp, h, Option.filter_some]
    next h =>
      have hkeep : (p.seq == seq && !p.guarded) = false := by simpa using h
      exact (onStu_eq_self (stu_of_claim_kept (by simp only [hp, Option.filter_some, hkeep]; rfl)
        (by simp only [hp, Option.any_some, hkeep, Bool.and_false]; rfl))).symm

/-- What a failed attempt leaves of the own claim, whatever the frame was (R19, R33). -/
theorem noteFailed_fst (o : Offer) (seq : Nat) (givenUp : Bool) (s : State) : (noteFailed o seq givenUp s).1 = s.onStu fun v => { v with
    pending := v.pending.filter fun p => !(offerKind o == .claim && p.seq == seq && !p.guarded),
    deniedAt := if givenUp && (offerKind o == .claim && v.pending.any fun p => p.seq == seq && !p.guarded)
      then some s.timeBase else v.deniedAt } := by
  have other (hkind : (offerKind o == .claim) = false) : s = s.onStu fun v => { v with
      pending := v.pending.filter fun p => !(offerKind o == .claim && p.seq == seq && !p.guarded),
      deniedAt := if givenUp && (offerKind o == .claim && v.pending.any fun p => p.seq == seq && !p.guarded)
        then some s.timeBase else v.deniedAt } :=
    (onStu_eq_self (stu_of_claim_kept (filter_kept _ fun r _ => by simp only [hkind]; rfl)
      (by simp only [hkind, Bool.false_and, Bool.and_false]; rfl))).symm
  cases o with
  | claim m => exact stuClaimFailed_eq seq givenUp s
  | _ => exact other rfl

theorem noteFailed_snd (o : Offer) (seq : Nat) (givenUp : Bool) (s : State) : (noteFailed o seq givenUp s).2 =
    if givenUp then (match o with | .holdTake _ tag => [.pyuTakeGivenUp tag] | _ => []) else [] := by
  cases o <;> simp [noteFailed]

/-- A collision under an own frame, the eighth attempt told apart by its give-up. -/
theorem collision_of_own {o : Offer} {f : Sent} (hown : s.ownFrame = some (o, f)) : collision s =
    ((((setLine (!s.slDeLine) s).onLau fun l => { l with
        queue := l.queue.filterMap collidedSlot, intervalGuarded := l.guard }).onStu fun v => { v with
      pending := v.pending.filter fun p => !(offerKind o == .claim && p.seq == f.seq && !p.guarded),
      deniedAt := if s.eighthAttempt && (offerKind o == .claim && v.pending.any fun p => p.seq == f.seq && !p.guarded)
        then some s.timeBase else v.deniedAt }),
     if s.eighthAttempt then (match o with | .holdTake _ tag => [.pyuTakeGivenUp tag] | _ => [])
       ++ [.post .lineTrouble none 2 (frameKindCode (offerKind o)) 0] else []) := by
  simp only [collision, hown]
  cases s.eighthAttempt with
  | true => exact Prod.ext (noteFailed_fst o f.seq true _) (congrArg (· ++ _) (noteFailed_snd o f.seq true _))
  | false => exact Prod.ext (noteFailed_fst o f.seq false _) (noteFailed_snd o f.seq false _)

/-- Settles O16: the slots by `collidedSlot`, the rest by `collision_of_own`. -/
theorem collisionsRetryEightTimes : Obligations.CollisionsRetryEightTimes := by
  intro s hw hs line q
  refine ⟨fun t hunsent => ?_, fun t hsent hfew => ?_, fun t hsent hmany => ?_, fun hown => ?_, fun o f hown hmore => ?_,
    fun o f hown heighth => ?_⟩
  · simp [collidedSlot, hunsent]
  · exact (if_neg (by simp [hsent])).trans (if_pos hfew)
  · simp [collidedSlot, Option.isNone_iff_eq_none, hsent, Nat.not_lt.mpr hmany]
  · exact next_whenWorking_calm hw hs (by simp [collision, hown]) rfl
  · have hcollision := collision_of_own hown
    rw [hmore] at hcollision
    exact next_whenWorking_calm hw hs hcollision rfl
  · have hcollision := collision_of_own hown
    rw [heighth] at hcollision
    exact (next_whenWorking hw collision).trans (congrArg (fun e => Host.Outcome.next (react e)) hcollision)

end Sys2Proof.Proofs
end

section
/-! ## Posted frames and the guard end (R13, R14, R17, R21, R33, R34, R47, R50, R147, R149, R152) -/

namespace Sys2Proof.Proofs

open Sys2Proof Sys2Proof.Machine

variable {s t : State}

/-! ### Posting -/

/-- A posted CLAIM carries the raise that is QUEUED under its sequence into GUARDED; it leaves every other raise (R33). -/
theorem claimPosted_eq (seq : Nat) (s : State) : claimPosted seq s = s.onStu fun w => { w with
    lastClaimPosted := s.timeBase, lineState := if w.lineState = .joining then .online else w.lineState,
    posted := match w.pending with
      | some p => if p.seq = seq ∧ p.guarded = false then p.target else w.posted
      | none => w.posted,
    pending := w.pending.map fun p => if p.seq = seq ∧ p.guarded = false then { p with guarded := true } else p } := by
  simp only [claimPosted, State.onStu]
  cases s.stu.pending with
  | none => rfl
  | some p =>
    dsimp only [Option.map_some]
    split <;> rfl

theorem rejoin_of_isolated (h : s.stu.lineState = .isolated) :
    rejoin s = (staleMark true (s.onStu fun w => { w with lineState := .online }), [.post .rejoined none 0 0 0, .brcHeat]) := if_pos h

theorem rejoin_of_not_isolated (h : s.stu.lineState ≠ .isolated) : rejoin s = (s, []) := if_neg h

/-- The originator's note leaves ISOLATED alone: only JOINING ends with a posted CLAIM. -/
theorem notePosted_isolated_iff (o : Offer) (seq : Nat) (s : State) :
    (notePosted o seq s).1.stu.lineState = .isolated ↔ s.stu.lineState = .isolated := by
  cases o with
  | claim m =>
    simp only [notePosted, claimPosted_eq, State.onStu]
    split <;> simp_all
  | _ => exact Iff.rfl

/-- Settles O17: `framePosted_of_own`, the note of the originator by its kind, then whether ISOLATED is left. -/
theorem postedFramesSettleTheirSlot : Obligations.PostedFramesSettleTheirSlot := by
  intro s hw
  refine ⟨fun hown hs => next_whenWorking_calm hw hs (by simp [framePosted, hown]) rfl, fun o f hown => ?_⟩
  intro u v told
  have hsettled : frameEnd f.frame (s.onLau fun l => { l with queue := postedQueue l.queue }) = u := frameEnd_eq _ _
  have hnote : notePosted o f.seq u = (v, told) := by
    cases o with
    | claim m => exact Prod.ext (claimPosted_eq f.seq u) rfl
    | _ => rfl
  have hposted : framePosted s = ((rejoin v).1, told ++ (rejoin v).2) := by
    rw [framePosted_of_own hown, hsettled]
    simp only [hnote]
  have hline : v.stu.lineState = .isolated ↔ s.stu.lineState = .isolated := by
    have h := notePosted_isolated_iff o f.seq u
    rwa [hnote] at h
  refine ⟨fun hfree => ?_, fun hisolated => ?_⟩
  · rw [exec, execFramePosted, next_whenWorking hw, hposted, rejoin_of_not_isolated (mt hline.mp hfree), List.append_nil]
  · rw [exec, execFramePosted, next_whenWorking hw, hposted, rejoin_of_isolated (hline.mpr hisolated)]

/-! ### The payment in flight -/

theorem setPayment_of_some {p : Payment} (hp : s.pyu.payment = some p) (f : Payment → Payment) :
    setPayment f s = s.onPyu fun u => { u with payment := some (f p) } := by
  simp [setPayment, State.onPyu, hp]

section Hold

variable {p : Payment}

theorem pyuGuardEnd_of_none (h : s.pyu.payment = none) : pyuGuardEnd s = (s, []) := by simp [pyuGuardEnd, h]

theorem pyuGuardEnd_of_unguarded (hp : s.pyu.payment = some p) (hhold : p.hold ≠ .guarded) : pyuGuardEnd s = (s, []) := by
  simp [pyuGuardEnd, hp, hhold]

/-- Under the stale mark the settlement is deferred (R149). -/
theorem pyuGuardEnd_of_stale (hp : s.pyu.payment = some p) (hhold : p.hold = .guarded) (hstale : s.stu.stale = true) :
    pyuGuardEnd s = (s.onPyu fun u => { u with payment := some { p with deferredSettle := true } }, []) := by
  simp [pyuGuardEnd, hp, hhold, hstale, setPayment_of_some hp]

/-- The hold settles, with the refresh that a JOIN asked for (R149, R151). -/
theorem pyuGuardEnd_of_guarded (hp : s.pyu.payment = some p) (hhold : p.hold = .guarded) (hstale : s.stu.stale = false) :
    pyuGuardEnd s =
      (let u := s.onPyu fun u => { u with
        payment := some { p with hold := .settled, joinRefresh := false, refreshBase := p.lastTake } }
       if p.joinRefresh = true ∧ s.takeQueued p.tag = false then offerFrame (.holdTake p.badge p.tag) u else u, [.pyuTryWrite]) := by
  simp only [pyuGuardEnd, hp, hhold, hstale, ne_eq, not_true_eq_false, if_false, Bool.false_eq_true, setPayment_of_some hp, offerRefresh,
    offerTake]
  have hqueue (f : Pyu → Pyu) : (s.onPyu f).takeQueued p.tag = s.takeQueued p.tag := rfl
  cases p.joinRefresh <;> cases hqueued : s.takeQueued p.tag <;> simp [hqueue, hqueued]

theorem pyuTryWrite_of_none (h : s.pyu.payment = none) : pyuTryWrite s = (s, []) := by simp [pyuTryWrite, h]

theorem pyuTryWrite_of_unready (hp : s.pyu.payment = some p) (h : p.state ≠ .hold ∨ p.hold ≠ .settled) :
    pyuTryWrite s = (s, []) := by
  simp only [pyuTryWrite, hp]
  exact if_pos h

theorem pyuTryWrite_of_settled (hp : s.pyu.payment = some p) (hstate : p.state = .hold) (hhold : p.hold = .settled) :
    pyuTryWrite s = if p.lapsed then endUnpaid .holdLost s
      else if s.peerHolds p.badge 0 then (s, []) else (enterWriting p s, []) := by
  simp [pyuTryWrite, hp, hstate, hhold]

/-- The WRITE takes the place kept for one, and no deadline runs until it begins (R142, R152; log 19, 27). -/
theorem enterWriting_of_some (hp : s.pyu.payment = some p) : enterWriting p s = s.onPyu fun v => { v with
    payment := some { p with state := .writing, deadline := none },
    sendQueue := v.sendQueue.filter (fun r => !isWrite r) ++ [.write p.badge p.expectedSeq p.newBalance] } := by
  simp [enterWriting, setPayment, sendWrite, State.onPyu, hp]

end Hold

/-! ### The guard end -/

theorem stuGuardEnd_of_guarded {p : PendingRaise} (hp : s.stu.pending = some p) (hguarded : p.guarded = true) : stuGuardEnd s =
    (s.onStu fun v => { v with confirmed := p.target, pending := none },
     [.claimReport] ++ grantedReports s.stu.confirmed p.target s ++ [.stuLower, .stuRise .any, .stuRetry]) := by
  simp [stuGuardEnd, hp, hguarded]

theorem stuGuardEnd_of_unguarded (h : (s.stu.pending.any fun p => p.guarded) = false) : stuGuardEnd s = (s, []) := by
  unfold stuGuardEnd
  cases hp : s.stu.pending with
  | none => rfl
  | some p =>
    have hqueued : p.guarded = false := by simpa [hp] using h
    simp [hqueued]

/-- Settles O18: the rules of `pyuGuardEnd` and `pyuTryWrite` by the payment, those of `stuGuardEnd` by the pending raise. -/
theorem guardEndSettlesTheRaise : Obligations.GuardEndSettlesTheRaise := by
  refine ⟨fun s => ⟨fun hnone => ⟨pyuGuardEnd_of_none hnone, pyuTryWrite_of_none hnone⟩, fun p hp => ?_⟩, fun s hdue => ?_⟩
  · intro holding u
    refine ⟨pyuGuardEnd_of_unguarded hp, pyuGuardEnd_of_stale hp, pyuGuardEnd_of_guarded hp, pyuTryWrite_of_unready hp,
      fun hstate hhold => ?_⟩
    have htry := pyuTryWrite_of_settled hp hstate hhold
    refine ⟨fun hlapsed => ?_, fun hkept hheld => ?_, fun hkept hfree => ?_⟩
    · exact htry.trans (if_pos hlapsed)
    · exact htry.trans ((if_neg (by simp [hkept])).trans (if_pos hheld))
    · refine htry.trans ((if_neg (by simp [hkept])).trans ((if_neg (by simp [hfree])).trans ?_))
      rw [enterWriting_of_some hp]
  · intro u
    have hend : exec .guardEnd s = .next (react ((stuGuardEnd u).1, (stuGuardEnd u).2 ++ [.pyuGuardEnd])) := next_onDue hdue guardEnd
    refine ⟨fun p hp hguarded => ?_, fun hqueued => ?_⟩
    · rw [hend, stuGuardEnd_of_guarded (s := u) hp hguarded]
      simp only [grantedReports, List.append_assoc, List.cons_append, List.nil_append]
      rfl
    · rw [hend, stuGuardEnd_of_unguarded (s := u) hqueued, List.nil_append]

end Sys2Proof.Proofs
end

section
/-! ## The share table: delivered frames, its timers, the renewal (R10, R14, R24 to R27, R35, R37 to R48, R150, R153) -/

namespace Sys2Proof.Proofs

open Sys2Proof Sys2Proof.Machine

variable {s t : State}

/-! ### Actions with a first report -/

/-- A report that makes none comes to its own writes, and the closing reports follow. -/
theorem runActs_report {a : Act} {u v : State} (hstop : ∀ c, a ≠ .stopEvent c) (hperform : perform a u = (v, [])) (n : Nat)
    (rest : List Act) : runActs (n + 1) (a :: rest) u = runActs n rest v := by
  rw [runActs, nextActs_report hstop, hperform, List.nil_append]

/-- One report whose writes the closing reports do not see leaves exactly those writes. -/
theorem react_report_calm (hs : s.Settled) {a : Act} {u v : State} (hstop : ∀ c, a ≠ .stopEvent c)
    (hperform : perform a u = (v, [])) (hcalm : v.calm = s.calm) : react (u, [a]) = v := by
  unfold react
  split
  · exact (runActs_report hstop hperform 399 settleActs).trans
      (runActs_idle _ _ (settled_perform (settled_of_calm hs hcalm)))
  · exact runActs_report hstop hperform 399 []

/-! ### Delivered frames -/

/-- A frame of another station ends on the line and goes to the share table (R10). -/
theorem exec_delivered (hw : s.working = true) {n : Nat} (hn : n ≠ s.conf.station) (f : Frame) :
    exec (deliveredRow n f) s = .next (react (stuDeliver n f (s.afterFrame (guardsRaise f)))) := by
  rw [exec_deliveredRow hw, deliver, if_neg hn, frameEnd_eq]

/-- An entry is written into the table, or its number is no station's and nothing is written. -/
theorem setEntry_onStu (n : Nat) (e : ShareEntry) (s : State) :
    ∃ table, setEntry n e s = s.onStu fun v => { v with table := table } := by
  unfold setEntry
  split
  · exact ⟨s.stu.table, rfl⟩
  · exact ⟨_, rfl⟩

/-- The station heard was the last of the awaited set, and the mark does not run for a full lease (R43). -/
def lastAwaited (n : Nat) (v : Stu) : Bool :=
  v.stale && v.awaited.contains n && (v.awaited.filter (· != n)).isEmpty && !v.fullLease

/-- The station heard leaves the awaited set; the last one heard clears the stale mark (R43). -/
theorem heardAwaited_eq (n : Nat) (s : State) : heardAwaited n s =
    (s.onStu fun v => { v with
      awaited := v.awaited.filter (· != n), stale := v.stale && !lastAwaited n v, fullLease := v.fullLease && !lastAwaited n v },
     if lastAwaited n s.stu then [.pyuStaleCleared, .stuRetry] else []) := by
  have hheard : heardAwaited n s = if lastAwaited n s.stu then staleClear (leaveAwaited n s) else (leaveAwaited n s, []) := rfl
  rw [hheard]
  cases hlast : lastAwaited n s.stu with
  | true =>
    have hempty : s.stu.awaited.filter (· != n) = [] := by
      simp only [lastAwaited, Bool.and_eq_true, List.isEmpty_iff] at hlast
      obtain ⟨⟨_, hrest⟩, _⟩ := hlast
      exact hrest
    simp [staleClear, leaveAwaited, State.onStu, hlast, hempty]
  | false => simp [leaveAwaited, State.onStu, hlast]

/-- The dispute test of a delivered RAISE (R38, R49). -/
theorem disputeTest_eq (n seq : Nat) (old : ShareEntry) (clean : CleanState) (s : State) :
    disputeTest n seq (old.clean == .cleaning) clean s =
      if s.stu.stale = true ∨ s.stu.lineState = .isolated then s
      else if s.stu.effBudget < s.lineTotal then offerFrame (.dispute n seq .budget) s
      else if clean = .cleaning ∧ old.clean ≠ .cleaning ∧ s.stu.effCleanLimit < s.cleanCount
        then offerFrame (.dispute n seq .cleanLimit) s
      else s := by
  simp only [disputeTest, Bool.or_eq_true, beq_iff_eq, beq_eq_false_iff_ne]

/-- Settles O20: the entry, the awaited set by `heardAwaited_eq`, the dispute by `disputeTest_eq`. -/
theorem claimUpdatesItsEntry : Obligations.ClaimUpdatesItsEntry := by
  intro s n b hw hn old rest clears u disputed
  refine (exec_delivered hw hn (.claim b)).trans (congrArg (fun e => Host.Outcome.next (react e)) ?_)
  let heard := setEntry n { old with
    live := true, leaseDeadline := s.timeBase + b.lease * 1000, lastSeq := b.seq, heat := b.heat, heatUnits := b.heatUnits,
    otherUnits := b.otherUnits, clean := b.clean, heardSinceStale := true } (s.afterFrame b.raise)
  have hheard : heardAwaited n heard = (u, if clears then [.pyuStaleCleared, .stuRetry] else []) := by
    obtain ⟨table, htable⟩ : ∃ table, heard = (s.afterFrame b.raise).onStu fun v => { v with table := table } := setEntry_onStu _ _ _
    rw [heardAwaited_eq, show u = heard.onStu _ from rfl, htable]
    rfl
  have hdisputed : (if b.raise then disputeTest n b.seq (old.clean == .cleaning) b.clean u else u) = disputed := by
    rw [disputeTest_eq]
    cases hraise : b.raise <;> simp [disputed, hraise]
  rw [← hdisputed]
  show ((if b.raise then disputeTest n b.seq (old.clean == .cleaning) b.clean (heardAwaited n heard).1 else (heardAwaited n heard).1),
    (heardAwaited n heard).2 ++ _) = _
  rw [hheard]
  rfl

/-! ### HOLD -/

/-- The test of a delivered TAKE (R153). -/
theorem pyuHoldTest_eq (n : Nat) (badge : Badge) (seq : Nat) (s : State) : pyuHoldTest n badge seq s =
    if s.stu.stale = false ∧ ((s.pyu.payment.any fun p => p.badge == badge && p.taken) = true ∨ s.peerHolds badge n = true)
      then offerFrame (.dispute n seq .badge) s else s := by
  unfold pyuHoldTest
  cases s.stu.stale <;> simp

/-- A FREE clears the badge that it names (R25). -/
theorem stuHold_free_of_held {n : Nat} {b : HoldBody} (hfree : b.take = false)
    (hheld : (s.entry n).held.map HeldBadge.badge = some b.badge) : stuHold n b s =
    (setEntry n { s.entry n with lastSeq := b.seq, held := none } s, [.pyuHoldCleared b.badge]) := by
  simp [stuHold, hfree, hheld]

theorem stuHold_free_of_other {n : Nat} {b : HoldBody} (hfree : b.take = false)
    (hother : (s.entry n).held.map HeldBadge.badge ≠ some b.badge) : stuHold n b s =
    (setEntry n { s.entry n with lastSeq := b.seq } s, []) := by
  simp [stuHold, hfree, hother]

/-- Settles O21: a TAKE reports its test alone, a FREE the badge that it clears. -/
theorem holdUpdatesTheHeldBadge : Obligations.HoldUpdatesTheHeldBadge := by
  intro s n b hw hs hn old held entry u
  have hexec : exec (.holdDelivered n b) s = .next (react (stuHold n b (s.afterFrame b.take))) := exec_delivered hw hn (.hold b)
  refine ⟨fun htake => ?_, fun hfree hheld => ?_, fun hfree hother => ?_⟩
  · have hentry : stuHold n b (s.afterFrame b.take) = (u, [.pyuHoldTest n b.badge b.seq]) := by
      have hheld : entry = { (if old.live then old else { old with
          live := true, heat := .off, heatUnits := 0, otherUnits := 0, clean := .none,
          leaseDeadline := s.timeBase + s.conf.leaseS * 1000 }) with held := some held } := by
        show (if old.live then _ else _) = _
        split <;> rfl
      show stuHold n b (s.afterFrame b.take) = (setEntry n entry _, _)
      rw [hheld, stuHold, if_pos htake, htake]
      rfl
    have hstale : u.stu.stale = s.stu.stale := by
      obtain ⟨table, htable⟩ : ∃ table, u = (s.afterFrame true).onStu fun v => { v with table := table } := setEntry_onStu _ _ _
      rw [htable]
      rfl
    have hpayment : u.pyu.payment = s.pyu.payment := by
      obtain ⟨table, htable⟩ : ∃ table, u = (s.afterFrame true).onStu fun v => { v with table := table } := setEntry_onStu _ _ _
      rw [htable]
      rfl
    have htest := pyuHoldTest_eq n b.badge b.seq u
    rw [hstale, hpayment] at htest
    rw [hexec, hentry, ← htest]
    refine congrArg _ (react_report_calm hs nofun rfl ?_)
    rw [htest]
    split <;> simp [u]
  · rw [hexec, hfree, stuHold_free_of_held (s := s.afterFrame false) hfree hheld]
    rfl
  · rw [hexec, hfree, stuHold_free_of_other (s := s.afterFrame false) hfree hother]
    exact congrArg _ (react_calm hs (by simp))

end Sys2Proof.Proofs
end

section
/-! ## JOIN, NEED and DISPUTE, the timers of the share table, the renewal (R14, R26, R27, R35, R37 to R48, R150) -/

namespace Sys2Proof.Proofs

open Sys2Proof Sys2Proof.Machine

variable {s t : State}

/-! ### JOIN -/

@[simp] theorem postNotice_stu (k o c d1 d2) (s : State) : (postNotice k o c d1 d2 s).stu = s.stu := by
  unfold postNotice
  repeat' split
  all_goals rfl

/-- A value heard is noted unless it is the own one or has been noted (R27). -/
theorem noteMismatch_eq (code own heard : Nat) (seen : List Nat) (note : Nat → Stu → Stu) (s : State) :
    noteMismatch code own heard seen note s =
      if heard = own ∨ heard ∈ seen then s else postNotice .configMismatch none code heard 0 (s.onStu (note heard)) := by
  simp only [noteMismatch, List.contains_iff_mem]

/-- What a value heard leaves, noted or not. -/
theorem same_of_noted {c : Prop} [Decidable c] {k o code d1 d2} {u t : State} {f : Stu → Stu}
    (ht : t = if c then u else postNotice k o code d1 d2 (u.onStu f)) (hf : (u.onStu f).calm = u.calm) :
    t.calm = u.calm ∧ t.pyu = u.pyu ∧ (t.stu = u.stu ∨ t.stu = f u.stu) := by
  rw [ht]
  split
  · exact ⟨rfl, rfl, .inl rfl⟩
  · exact ⟨(calm_postNotice ..).trans hf, postNotice_pyu .., .inr (postNotice_stu ..)⟩

/-- Settles O22: the three values one after another, and the report to the Payment Unit, which has nothing to do without a payment. -/
theorem joinLowersTheLimits : Obligations.JoinLowersTheLimits := by
  intro s n b hw hs hn u u1 u2 u3
  obtain ⟨hcalm1, hpyu1, hstu1⟩ := same_of_noted (t := u1) rfl rfl
  obtain ⟨hcalm2, hpyu2, hstu2⟩ := same_of_noted (t := u2) rfl rfl
  obtain ⟨hcalm3, hpyu3, -⟩ := same_of_noted (t := u3) rfl rfl
  have hlimits : u1.stu.heardCleanLimits = s.stu.heardCleanLimits := by rcases hstu1 with h | h <;> rw [h] <;> rfl
  have hleases : u2.stu.heardLeases = s.stu.heardLeases := by
    rcases hstu2 with h | h <;> rcases hstu1 with h' | h' <;> rw [h, h'] <;> rfl
  have hjoin : stuJoin b (s.afterFrame false) = (offerPlainClaim u3, [.pyuJoin]) := by
    have h1 : noteMismatch 1 s.conf.budget b.budget u.stu.heardBudgets
        (fun v w => { w with heardBudgets := w.heardBudgets ++ [v] }) u = u1 := noteMismatch_eq ..
    have h2 : noteMismatch 2 s.conf.cleanLimit b.cleanLimit u1.stu.heardCleanLimits
        (fun v w => { w with heardCleanLimits := w.heardCleanLimits ++ [v] }) u1 = u2 := by
      rw [noteMismatch_eq, hlimits]
    have h3 : noteMismatch 3 s.conf.leaseS b.lease u2.stu.heardLeases
        (fun v w => { w with heardLeases := w.heardLeases ++ [v] }) u2 = u3 := by
      rw [noteMismatch_eq, hleases]
    rw [← h3, ← h2, ← h1]
    rfl
  have hexec : exec (.joinDelivered n b) s = .next (react (offerPlainClaim u3, [.pyuJoin])) :=
    (exec_delivered hw hn (.join b)).trans (congrArg (fun e => Host.Outcome.next (react e)) hjoin)
  refine ⟨fun hnone => ?_, hexec⟩
  refine hexec.trans (congrArg _ (react_report_calm hs nofun ?_ ?_))
  case refine_2 => rw [calm_offerPlainClaim, hcalm3, hcalm2, hcalm1]; rfl
  have hidle : (offerPlainClaim u3).pyu.payment = none := by
    rw [offerPlainClaim, offerFrame_pyu, hpyu3, hpyu2, hpyu1]
    exact hnone
  simp [perform, pyuJoin, hidle]

/-! ### NEED -/

/-- Settles O23: `stepsDown` is the conjunction of the three conditions. -/
theorem needStepsTheStationDown : Obligations.NeedStepsTheStationDown := by
  intro s n b hw hs hn u
  have hexec : exec (.needDelivered n b) s = .next (react (stuNeedHeard n b (s.afterFrame false))) :=
    exec_delivered hw hn (.need b)
  have hdown : (s.afterFrame false).stepsDown = (!s.oru.cupPending && s.stu.posted.heat != .off && !s.inStretch) := rfl
  refine ⟨fun hstays => ?_, fun hcup hheat hstretch => ?_⟩
  · rw [hexec, stuNeedHeard, hdown, if_neg (by rcases hstays with h | h | h <;> simp [h])]
    exact congrArg _ (react_calm hs (by simp [noteSeq]))
  · have hdeadline : u.stu.stepDown = s.stu.stepDown := by
      obtain ⟨table, htable⟩ : ∃ table, u = (s.afterFrame false).onStu fun v => { v with table := table } := setEntry_onStu _ _ _
      rw [htable]
      rfl
    rw [hexec, stuNeedHeard, hdown, if_pos (by simp [hcup, hheat, hstretch])]
    simp only [State.onStu, hdeadline]
    rfl

/-! ### DISPUTE -/

/-- A delivered DISPUTE first removes a queued one of its pair (R14). -/
theorem stuDispute_eq (n : Nat) (b : DisputeBody) (s : State) : stuDispute n b s =
    (let u := dropDispute b.target b.targetSeq (noteSeq n b.seq s)
     if b.target = s.conf.station then
       (if u.stu.pending.any fun p => p.guarded && p.seq == b.targetSeq then stuWithdraw u else (u, [.pyuDispute b.targetSeq]))
     else (u, [])) := by
  dsimp only [stuDispute]
  split
  · cases (dropDispute b.target b.targetSeq (noteSeq n b.seq s)).stu.pending <;> rfl
  · rfl

/-- Settles O24: whether the DISPUTE names the pending raise decides; the withdrawal is `stuWithdraw`. -/
theorem disputeWithdrawsTheRaise : Obligations.DisputeWithdrawsTheRaise := by
  intro s n b hw hs hn u names pending w retries
  have hexec : exec (.disputeDelivered n b) s = .next (react (stuDispute n b (s.afterFrame false))) :=
    exec_delivered hw hn (.dispute b)
  obtain ⟨hpending, hwishes, hconfirmed, htime, hcalm, hpayment⟩ : u.stu.pending = s.stu.pending ∧ u.wishes = s.wishes
      ∧ u.stu.confirmed = s.stu.confirmed ∧ u.timeBase = s.timeBase ∧ u.calm = s.calm ∧ u.pyu.payment = s.pyu.payment := by
    obtain ⟨table, htable⟩ : ∃ table, setEntry n { s.entry n with lastSeq := b.seq } (s.afterFrame false)
        = (s.afterFrame false).onStu fun v => { v with table := table } := setEntry_onStu _ _ _
    simp only [u, htable]
    exact ⟨rfl, rfl, rfl, rfl, rfl, rfl⟩
  have heq : stuDispute n b (s.afterFrame false) =
      if names then (if pending then stuWithdraw u else (u, [.pyuDispute b.targetSeq])) else (u, []) := by
    simp only [pending, ← hpending]
    exact stuDispute_eq n b (s.afterFrame false)
  refine ⟨fun hnames hraise => ?_, fun hnames hraise => ?_, fun hnames hraise hhold => ?_, fun hother => ?_⟩
  · have hguarded : s.stu.pending.any PendingRaise.guarded = true := by
      cases hp : s.stu.pending with
      | none => simp [pending, hp] at hraise
      | some p => simp_all [pending]
    have hfst := stuWithdraw_fst (s := u)
    have hsnd := stuWithdraw_snd (s := u)
    simp only [hpending, hwishes, hconfirmed, htime, hguarded, if_true] at hfst hsnd
    rw [hexec, heq, if_pos hnames, if_pos hraise]
    exact congrArg (fun e => Host.Outcome.next (react e)) (Prod.ext hfst hsnd)
  · rw [hexec, heq, if_pos hnames, hraise]
    rfl
  · rw [hexec, heq, if_pos hnames, hraise]
    refine congrArg _ (react_report_calm hs nofun ?_ hcalm)
    simp [perform, pyuDispute, hpayment, hhold]
  · rw [hexec, heq, if_neg hother]
    exact congrArg _ (react_calm hs hcalm)

end Sys2Proof.Proofs
end

section
/-! ## The timers of the share table, the renewal, the drawn units (R26, R37, R40, R43, R44, R46 to R48, R53, R59, R60, R65, R68) -/

namespace Sys2Proof.Proofs

open Sys2Proof Sys2Proof.Machine

variable {s t : State}

/-! ### Retry points and the step-down -/

/-- A retry point under a pending raise is held (R37; log 9). -/
theorem stuRetry_of_pending (hline : s.stu.lineState ≠ .isolated) (hraise : raisesOver s.wishes s.stu.confirmed = true)
    (hpending : s.stu.pending.isSome = true) :
    stuRetry s = s.onStu fun v => { v with pending := v.pending.map fun p => { p with heldRetry := true } } := by
  simp [stuRetry, hline, hraise, hpending]

theorem stuRetry_of_free (hline : s.stu.lineState ≠ .isolated) (hraise : raisesOver s.wishes s.stu.confirmed = true)
    (hpending : s.stu.pending = none) : stuRetry s =
    if s.stu.stale = false ∧ raisesOver s.composed s.stu.posted = true then offerFrame (.claim true) s
    else s.onStu fun v => { v with deniedAt := some s.timeBase } := by
  simp [stuRetry, hline, hraise, hpending, offerClaim]

theorem retry_of_due (h : s.dueRetry = true) : s.stu.lineState ≠ .isolated ∧ raisesOver s.wishes s.stu.confirmed = true := by
  simp only [State.dueRetry, Bool.and_eq_true, bne_iff_ne] at h
  obtain ⟨⟨⟨_, hline⟩, hraise⟩, _⟩ := h
  exact ⟨hline, hraise⟩

theorem stuStepDownEnd_of_running (h : s.stu.stepDown.isSome = true) : stuStepDownEnd s =
    ((s.onStu fun v => { v with stepDown := none }).onBrc fun v => { v with steppedDown := false },
     [.brcRegulator, .stuRise .heat, .stuRetry]) := by
  refine if_neg ?_
  rw [← Option.not_isSome, h]
  decide

theorem stepDown_of_due (h : s.dueStepDownEnd = true) : s.stu.stepDown.isSome = true := by
  simp only [State.dueStepDownEnd, State.reached, Bool.and_eq_true] at h
  obtain ⟨_, hreached⟩ := h
  cases hd : s.stu.stepDown with
  | none => simp [hd] at hreached
  | some d => rfl

/-- Settles O25: each timer is its effect; a retry point by whether a raise is pending. -/
theorem shareTimersAct : Obligations.ShareTimersAct := by
  intro s
  refine ⟨fun n => ⟨fun hdue => next_onDue hdue (leaseExpire n), fun hdue h hheld => ?_⟩, fun hs => ⟨fun hdue hpending => ?_,
    fun hdue hpending => ?_, fun hdue => ?_, fun hdue => next_onDue hdue staleClear, fun hdue => ?_⟩⟩
  · refine (next_onDue hdue (holdExpire n)).trans ?_
    rw [holdExpire, hheld]
  · obtain ⟨hline, hraise⟩ := retry_of_due hdue
    exact next_onDue_calm hdue hs (f := fun s => (stuRetry s, [])) (congrArg (·, []) (stuRetry_of_pending hline hraise hpending)) rfl
  · obtain ⟨hline, hraise⟩ := retry_of_due hdue
    refine next_onDue_calm hdue hs (f := fun s => (stuRetry s, [])) (congrArg (·, []) (stuRetry_of_free hline hraise hpending)) ?_
    split
    · simp
    · rfl
  · exact next_onDue_calm hdue hs (f := fun s => (offerFrame .need s, [])) rfl (by simp)
  · refine (next_onDue hdue stuStepDownEnd).trans ?_
    rw [stuStepDownEnd_of_running (stepDown_of_due hdue)]

/-! ### The renewal -/

/-- The last of the steps leaves nothing claimed, so the lowered composition is always within the allowance (R48). -/
theorem soloLowered_within (c : Cfg) (k : Composition) : compTotal c (soloLowered c k) ≤ c.soloAllowance := by
  unfold soloLowered
  cases hfound : (soloSteps k).find? fun k => decide (compTotal c k ≤ c.soloAllowance) with
  | none => simp [compTotal, heatUnits, otherUnits]
  | some k' => simpa using List.find?_some hfound

/-- The renewal's own claim, before the isolation test. -/
theorem renewal_eq : renewal s =
    (let u := offerFrame (.claim false) (s.onStu fun v => { v with lastRenewalDue := s.timeBase })
     if s.stu.lineState ≠ .isolated ∧ s.stu.lastClaimPosted + s.conf.leaseS * 1000 ≤ s.timeBase then isolate u else (u, [])) := rfl

/-- Settles O26: the isolation test decides; the entry to ISOLATED is `isolate`. -/
theorem renewalsTestForIsolation : Obligations.RenewalsTestForIsolation := by
  intro s hdue hs u k
  refine ⟨fun hposted => ?_, fun hline hunheard => ?_, soloLowered_within _ _⟩
  · refine next_onDue_calm hdue hs (renewal_eq.trans (if_neg ?_)) (by simp only [u, calm_offerFrame]; rfl)
    rintro ⟨hline, hunheard⟩
    rcases hposted with h | h
    · exact hline h
    · omega
  · refine (next_onDue hdue renewal).trans (congrArg (fun e => Host.Outcome.next (react e)) ?_)
    rw [renewal_eq, if_pos ⟨hline, hunheard⟩]
    obtain ⟨q, hq⟩ := offerClaim_onLau false (s.onStu fun v => { v with lastRenewalDue := s.timeBase })
    have hconf : u.conf = s.conf ∧ u.stu.confirmed = s.stu.confirmed := by
      simp only [u, hq]
      exact ⟨rfl, rfl⟩
    obtain ⟨hcfg, hconfirmed⟩ := hconf
    show isolate u = _
    simp only [isolate, hcfg, hconfirmed]
    rfl

end Sys2Proof.Proofs
end

section
/-! ## Drawn units, stop events, phase sets (R55, R56, R62, R63, R68, R113, R186) -/

namespace Sys2Proof.Proofs

open Sys2Proof Sys2Proof.Machine

variable {s t : State}

/-! ### Drawn units -/

/-- The drawn units of a state that keeps the interlocks, by the permissions that they require (R68). -/
theorem drawn_le (h : Interlocks s) : s.drawn ≤ heatUnits s.conf s.dcu.granted + (if s.dcu.basePerm then s.conf.baseUnits else 0)
    + (if s.dcu.grindPerm then s.conf.motorUnits else 0) := by
  have hbase : (if 0 < s.dcu.pump || s.dcu.brewer != .stop then s.conf.baseUnits else 0)
      ≤ if s.dcu.basePerm then s.conf.baseUnits else 0 := by
    split
    next hdriven =>
      simp only [Bool.or_eq_true, decide_eq_true_eq, bne_iff_ne] at hdriven
      exact Nat.le_of_eq (if_pos (hdriven.elim h.pump h.brewer)).symm
    next => exact Nat.zero_le _
  have hheat : (if 0 < s.dcu.heater then heatUnits s.conf s.dcu.granted else 0) ≤ heatUnits s.conf s.dcu.granted := by
    split <;> omega
  have hgrind : (if s.dcu.grinder then s.conf.motorUnits else 0) ≤ if s.dcu.grindPerm then s.conf.motorUnits else 0 := by
    split
    next hon => exact Nat.le_of_eq (if_pos (h.grinder hon).1).symm
    next => exact Nat.zero_le _
  unfold State.drawn
  omega

/-- Settles O27: the permissions bound the drawn units, and a report leaves them at the confirmed composition. -/
theorem drawnUnitsStayWithinTheClaim : Obligations.DrawnUnitsStayWithinTheClaim := by
  intro s h
  obtain ⟨hbase, hgrind, hgranted, _, _, _, _, _, _, hconf⟩ := @claimReport_dcu s
  refine ⟨drawn_le h, hgranted, hbase, hgrind, ?_⟩
  have hdrawn := drawn_le (locks_claimReport h)
  rw [hgranted, hbase, hgrind, hconf] at hdrawn
  show (claimReport s).1.drawn ≤ _
  unfold compTotal otherUnits
  omega

/-! ### Stop events -/

theorem setPump_zero : setPump 0 s = { s with
    dcu := { s.dcu with
      pump := 0, pumpPeriod := 0 }
    cnu := { s.cnu with
      flow := if s.dcu.pump = 0 then s.cnu.flow else { s.cnu.flow with monitor := .off } } } := by
  by_cases h : s.dcu.pump = 0 <;> simp only [setPump, h] <;> rfl

theorem setGrinder_off : setGrinder false s = { s with
    dcu := { s.dcu with
      grinder := false, grinderPeriod := if s.dcu.grinder then 0 else s.dcu.grinderPeriod }
    cnu := { s.cnu with
      grind := if s.dcu.grinder then { s.cnu.grind with monitor := .off } else s.cnu.grind } } := by
  cases h : s.dcu.grinder
  · rw [setGrinder, if_pos h]
    simp only [Bool.false_eq_true, if_false]
    rw [← h]
  · simp only [setGrinder, h]
    rfl

theorem stopLevels_eq : stopLevels s = { s with
    dcu := { s.dcu with
      heater := 0, pump := 0, pumpPeriod := 0, grinder := false, brewer := .stop,
      grinderPeriod := if s.dcu.grinder then 0 else s.dcu.grinderPeriod,
      valveBrew := stopValve s.conf.stopBrew s.dcu.valveBrew, valveDrain := stopValve s.conf.stopDrain s.dcu.valveDrain,
      valveRinse := stopValve s.conf.stopRinse s.dcu.valveRinse, holds := HoldMarks.clear, serviceGrind := false }
    cnu := { s.cnu with
      grind := if s.dcu.grinder then { s.cnu.grind with monitor := .off } else s.cnu.grind,
      flow := if s.dcu.pump = 0 then s.cnu.flow else { s.cnu.flow with monitor := .off } } } := by
  simp only [stopLevels, setPump_zero, setGrinder_off]
  rfl

theorem afterStops_of_head {cause : Reason} {after : List Act} (h : ∀ other, after.head? ≠ some (.stopEvent other)) :
    afterStops cause after = .stopEvent cause :: after := by
  match after, h with
  | [], _ => rfl
  | a :: rest, h =>
    cases a with
    | stopEvent other => exact absurd rfl (h other)
    | _ => rfl

/-- A deferred stop event goes behind the end of the stop event in hand (R62). -/
theorem deferStop_append {cause : Reason} {before after : List Act} (hbefore : .stopOver ∉ before)
    (hafter : ∀ other, after.head? ≠ some (.stopEvent other)) :
    deferStop cause (before ++ .stopOver :: after) = before ++ .stopOver :: .stopEvent cause :: after := by
  induction before with
  | nil => simp [deferStop, afterStops_of_head hafter]
  | cons a rest ih =>
    simp only [List.mem_cons, not_or] at hbefore
    obtain ⟨hhead, hrest⟩ := hbefore
    have hcons : deferStop cause (a :: (rest ++ .stopOver :: after)) = a :: deferStop cause (rest ++ .stopOver :: after) := by
      cases a with
      | stopOver => exact absurd rfl hhead
      | _ => rfl
    rw [List.cons_append, hcons, ih hrest, List.cons_append]

theorem nextActs_stop_during {cause : Reason} {rest : List Act} (h : .stopOver ∈ rest) :
    nextActs (.stopEvent cause) rest s = (deferStop cause rest, s) := by
  simp [nextActs, h]

/-! ### The reports of a stop to the work in hand -/

theorem brcStop_of_cup {cause : Reason} (hunit : s.brc.unit = .cup) : brcStop cause s =
    (setRun (fun r => { r with abort := some (r.abort.getD cause), stop := .reporting, deadline := none, waiting := false })
      (reportRegulator (moveOver s)), [.brcHeat]) := by
  simp only [brcStop, hunit]

theorem brcStop_of_step {cause : Reason} (hunit : s.brc.unit = .step) :
    brcStop cause s = (strokesOver (reportRegulator (moveOver s)), s.moveStopped) := by
  simp only [brcStop, hunit]

theorem cupRun_of_cup (hunit : s.brc.unit = .cup) : s.cupRun = s.brc.run := if_pos hunit

theorem cup_of_cupRun {r : CupRun} (h : s.cupRun = some r) : s.brc.unit = .cup ∧ s.brc.run = some r := by
  unfold State.cupRun at h
  split at h
  next hunit => exact ⟨hunit, h⟩
  next => cases h

/-- The run record of a state that holds one is set (R107). -/
theorem setRun_of_run {r : CupRun} (f : CupRun → CupRun) (h : s.brc.run = some r) :
    setRun f s = s.onBrc fun b => { b with run := some (f r) } := by
  simp [setRun, State.onBrc, h]

theorem cupRun_setRun (f : CupRun → CupRun) : (setRun f s).cupRun = s.cupRun.map f := by
  by_cases h : s.brc.unit = .cup <;> simp [State.cupRun, setRun, State.onBrc, h]

theorem brcStopOver_of_reporting {r : CupRun} (h : s.cupRun = some r) (hstop : r.stop = .reporting) : brcStopOver s =
    (s.onBrc fun b => { b with run := some { r with stop := .made } },
     if r.state = .grind ∧ r.grindOver = false then [] else [.brcProceed]) := by
  obtain ⟨_, hrun⟩ := cup_of_cupRun h
  simp only [brcStopOver, h, hstop, ne_eq, not_true_eq_false, if_false, setRun_of_run _ hrun]

/-! ### Step-down and phase sets -/

theorem unitStop_eq : unitStop s = { s with
    dcu := { s.dcu with
      pump := 0, pumpPeriod := 0, brewer := .stop, valveBrew := stopValve s.conf.stopBrew s.dcu.valveBrew,
      valveDrain := stopValve s.conf.stopDrain s.dcu.valveDrain, valveRinse := stopValve s.conf.stopRinse s.dcu.valveRinse,
      holds := { HoldMarks.clear with
        heater := s.dcu.holds.heater, grinder := s.dcu.holds.grinder } }
    cnu := { s.cnu with
      flow := if s.dcu.pump = 0 then s.cnu.flow else { s.cnu.flow with monitor := .off } } } := by
  simp only [unitStop, setPump_zero]
  rfl

theorem stepRunning_iff : s.stepRunning = true ↔ s.clc.state = .run ∨ s.clc.state = .prompt := by
  simp [State.stepRunning]

theorem inStretch_of_cycle {c : Cycle} (h : s.clc.cycle = some c) (hstretch : c.stretch = false) : s.inStretch = false := by
  simp [State.inStretch, h, hstretch]

theorem runningStep_of_held {c : Cycle} (hrunning : s.stepRunning = true) (h : s.clc.cycle = some c) (hheld : c.unitHeld = true) :
    s.runningStep = some c := by
  simp [State.runningStep, hrunning, h, hheld, Option.filter]

theorem suspended_of_cycle {c : Cycle} (h : s.clc.cycle = some c) : suspended s = s.onClc fun u => { u with
    state := .suspended, cycle := none, resume := some { kind := c.kind, step := c.step, time := s.timeBase } } := by
  simp [suspended, State.onClc, h]

/-- A running step outside the no-suspend stretch is cut by a brew-unit stop (R186). -/
theorem clcStepDown_of_running {c : Cycle} (hrunning : s.stepRunning = true) (h : s.clc.cycle = some c)
    (hheld : c.unitHeld = true) (hstretch : c.stretch = false) : clcStepDown s =
    (strokesOver (moveOver (unitStop (suspended s))),
     [.cnuStop .flow] ++ (if s.brc.move.isSome then [.clcMoveStopped] else []) ++ [.brcStepEnd, .stuCleanWish false]) := by
  simp [clcStepDown, hrunning, inStretch_of_cycle h hstretch, runningStep_of_held hrunning h hheld, State.moveStopped]

/-- The row of a phase on the valves that carry no hold mark (R55). -/
def phaseValves (p : Phase) (row : PhaseRow) (u : Dcu) : Dcu :=
  { u with
    phase := p,
    valveBrew := if u.holds.valveBrew then u.valveBrew else row.valveBrew,
    valveDrain := if u.holds.valveDrain then u.valveDrain else row.valveDrain,
    valveRinse := if u.holds.valveRinse then u.valveRinse else row.valveRinse }

theorem phaseSet_of_inert (p : Phase) (hw : s.working = false) : phaseSet p s = s := by simp [phaseSet, hw]

theorem phaseSet_of_working (p : Phase) (hw : s.working = true) : phaseSet p s =
    if s.dcu.holds.pump then s.onDcu (phaseValves p (s.phaseRow p))
    else setPump (if s.dcu.basePerm then (s.phaseRow p).pump else 0) (s.onDcu (phaseValves p (s.phaseRow p))) := by
  simp only [phaseSet, hw]
  rfl

theorem setPump_of_driven (d : Nat) (hd : d ≠ 0) : setPump d s =
    if s.dcu.pump = 0 then monitorDriven .flow (s.onDcu fun u => { u with pump := d }) else s.onDcu fun u => { u with pump := d } := by
  simp only [setPump, hd, if_false]

/-- A report to the flow monitor changes the monitor alone (R79). -/
theorem monitorDriven_frame : monitorDriven .flow s = { s with
    cnu := { s.cnu with
      flow := { s.cnu.flow with monitor := (monitorDriven .flow s).cnu.flow.monitor } } } := by
  have hkept : ∀ k : Counter, (if k.latch then k else { k with monitor := .spinUp s.timeBase })
      = { k with monitor := (if k.latch then k else { k with monitor := .spinUp s.timeBase }).monitor } := by
    intro k
    split <;> rfl
  exact congrArg (fun k => { s with cnu := { s.cnu with flow := k } }) (hkept s.cnu.flow)

/-- PUMP takes a duty: nothing but the DCU and the flow monitor changes (R52). -/
theorem setPump_frame (d : Nat) : setPump d s = { s with
    dcu := (setPump d s).dcu
    cnu := { s.cnu with
      flow := { s.cnu.flow with monitor := (setPump d s).cnu.flow.monitor } } } := by
  by_cases hd : d = 0
  · subst hd
    by_cases hp : s.dcu.pump = 0 <;> simp only [setPump_zero, hp] <;> rfl
  · rw [setPump_of_driven d hd]
    split
    · exact monitorDriven_frame
    · rfl

/-- Settles O28: the equations above, one for each report. -/
theorem stopEventsAndPhaseSets : Obligations.StopEventsAndPhaseSets := by
  intro s
  refine ⟨fun cause => congrArg (·, _) stopLevels_eq, fun cause before after hbefore hafter => ?_, fun r cause hunit hrun => ?_,
    fun r hrun hstop => brcStopOver_of_reporting hrun hstop, rfl, fun cause hunit => ⟨_, brcStop_of_step hunit, rfl, rfl⟩,
    fun c hstate hcycle hheld hstretch => ?_, fun p => ⟨phaseSet_of_inert p, fun hw => ?_⟩⟩
  · rw [nextActs_stop_during (by simp), deferStop_append hbefore hafter]
  · refine ⟨_, brcStop_of_cup hunit, ?_⟩
    rw [cupRun_setRun]
    show (if s.brc.unit = .cup then s.brc.run else none).map _ = _
    rw [if_pos hunit, hrun]
    rfl
  · refine ⟨_, clcStepDown_of_running (stepRunning_iff.mpr hstate) hcycle hheld hstretch, ?_⟩
    rw [suspended_of_cycle hcycle, unitStop_eq]
    exact ⟨rfl, rfl, rfl, rfl⟩
  · intro row t
    have ht : t = _ := phaseSet_of_working p hw
    by_cases hmark : s.dcu.holds.pump = true
    · rw [if_pos hmark] at ht
      rw [ht]
      exact ⟨rfl, (if_pos hmark).symm, rfl, rfl, rfl, rfl, rfl, rfl, rfl, rfl⟩
    · rw [if_neg hmark] at ht
      rw [ht]
      have hframe := setPump_frame (s := s.onDcu (phaseValves p (s.phaseRow p)))
        (if s.dcu.basePerm then (s.phaseRow p).pump else 0)
      refine ⟨?_, ?_, ?_, ?_, ?_, ?_, ?_, ?_, ?_, hframe⟩ <;> rw [setPump_dcu]
      · rfl
      · exact (if_neg hmark).symm
      all_goals rfl

end Sys2Proof.Proofs
end

section
/-! ## The service drive (R65, R66, R196) -/

namespace Sys2Proof.Proofs

open Sys2Proof Sys2Proof.Machine

variable {s t : State}

/-! ### Requests that the SERVICE mode admits -/

/-- While RESET_N is not asserted a request is answered by its owner or refused by the station mode (R196). -/
theorem request_of_listening (hline : s.pins.resetAsserted = false) (kind bodyLength : Nat) (a : Admission) (owner : State → Answer) :
    request kind bodyLength a owner s = placeReply (byteOf kind) (bodyLength + 3)
      (((modeRefusal a s.plk.mode).map fun r => refuse r s).getD (owner s)) := by
  simp only [request, hline, Bool.false_eq_true, if_false]
  cases modeRefusal a s.plk.mode <;> rfl

theorem exec_serviceDrive (hline : s.pins.resetAsserted = false) {channel value : Byte} {a : Answer}
    (h : ((modeRefusal .enter s.plk.mode).map fun r => refuse r s).getD
      (answerServiceDrive channel.toNat value.toNat s) = a) :
    exec (.serviceDrive channel value) s = .next (placeReply 14#8 5 a) := by
  rw [← h]
  exact congrArg Host.Outcome.next (request_of_listening hline 14 2 .enter _)

theorem answerServiceDrive_of_outside {c v : Nat} (hc : c = 0 ∨ 7 < c) : answerServiceDrive c v s = refuse .badRequest s :=
  if_pos (by omega)

theorem answerServiceDrive_of_serving {c v : Nat} (h1 : 1 ≤ c) (h7 : c ≤ 7) (hmode : s.plk.mode ≠ .service) :
    answerServiceDrive c v s = refuse .notService s := by
  rw [answerServiceDrive, if_neg (by omega), if_pos hmode]

theorem answerServiceDrive_of_service {c v : Nat} (h1 : 1 ≤ c) (h7 : c ≤ 7) (hmode : s.plk.mode = .service) :
    answerServiceDrive c v s = if !suits c v then refuse .badValue s else match serviceDrive c v s with
      | .error r => refuse r s
      | .ok e => answerOk (react e) (field1 (channelValue c (react e))) :=
  (if_neg (by omega)).trans ((if_neg (not_not_intro hmode)).trans rfl)

theorem answerServiceDrive_of_error {c v : Nat} {r : Result} (h1 : 1 ≤ c) (h7 : c ≤ 7) (hmode : s.plk.mode = .service)
    (hsuits : suits c v = true) (hdrive : serviceDrive c v s = .error r) : answerServiceDrive c v s = refuse r s := by
  simp [answerServiceDrive_of_service h1 h7 hmode, hsuits, hdrive]

theorem answerServiceDrive_of_ok {c v : Nat} {e : Eff} (h1 : 1 ≤ c) (h7 : c ≤ 7) (hmode : s.plk.mode = .service)
    (hsuits : suits c v = true) (hdrive : serviceDrive c v s = .ok e) :
    answerServiceDrive c v s = answerOk (react e) (field1 (channelValue c (react e))) := by
  simp [answerServiceDrive_of_service h1 h7 hmode, hsuits, hdrive]

/-- A valve takes the value that it shows. -/
theorem flagCode_of_le_one {v : Nat} (h : v ≤ 1) : flagCode (v == 1) = v := by
  obtain rfl | rfl : v = 0 ∨ v = 1 := by omega
  · rfl
  · rfl

/-! ### Channels and the closing reports -/

@[simp] theorem calm_setPump (d : Nat) (s : State) : (setPump d s).calm = s.calm := by
  rw [setPump_frame d]
  rfl

@[simp] theorem calm_setGrinder (b : Bool) (s : State) : (setGrinder b s).calm = s.calm := by
  unfold setGrinder monitorDriven monitorReleased
  repeat' split
  all_goals simp

@[simp] theorem calm_moveOver (s : State) : (moveOver s).calm = s.calm := rfl

@[simp] theorem setGrinder_grc (b : Bool) (s : State) : (setGrinder b s).grc = s.grc := by
  unfold setGrinder monitorDriven monitorReleased onCounter
  repeat' split
  all_goals rfl

/-- GRINDER OFF in service, before the wish falls (R66). -/
def serviceGrinderOff (s : State) : State :=
  (setGrinder false s).onDcu fun u => { u with holds := { u.holds with grinder := true }, serviceGrind := false }

theorem serviceGrindOff_of_wish (h : s.grc.serviceWish = true) : serviceGrindOff s =
    ((serviceGrinderOff s).onGrc fun g => { g with serviceWish := false }, [.stuGrindWish false]) := by
  refine if_pos ?_
  show (setGrinder false s).grc.serviceWish = true
  rw [setGrinder_grc, h]

theorem serviceGrindOff_of_none (h : s.grc.serviceWish = false) : serviceGrindOff s = (serviceGrinderOff s, []) := by
  refine if_neg ?_
  show ¬(setGrinder false s).grc.serviceWish = true
  rw [setGrinder_grc, h]
  decide

/-! ### Service moves -/

/-- The state from which a service move starts: a move in hand has ended (R66). -/
def movedFrom (s : State) : State := if s.brc.move = none then s else moveOver s

theorem serviceMove_of_same {up : Bool} {m : Move} (hmove : s.brc.move = some m) (hup : m.up = up) : serviceMove up s = (s, []) := by
  simp [serviceMove, hmove, hup]

theorem serviceMove_of_other {up : Bool} (h : ∀ m, s.brc.move = some m → m.up ≠ up) :
    serviceMove up s = (movedFrom s, [.brcMove up]) := by
  unfold serviceMove movedFrom
  cases hm : s.brc.move with
  | none => simp
  | some m => simp [h m hm]

/-- A move in hand that has ended leaves the time, the configuration, the permission and the latch. -/
theorem movedFrom_keeps : (movedFrom s).timeBase = s.timeBase ∧ (movedFrom s).conf = s.conf
    ∧ (movedFrom s).dcu.basePerm = s.dcu.basePerm ∧ (movedFrom s).brc.stuck = s.brc.stuck ∧ (movedFrom s).brc.unit = s.brc.unit
    ∧ (movedFrom s).calm = s.calm := by
  unfold movedFrom
  split <;> exact ⟨rfl, rfl, rfl, rfl, rfl, rfl⟩

theorem brcMove_at {up : Bool} (h : s.brc.position = if up then .top else .bottom) : brcMove up s = (s, [.brcArrived up]) := if_pos h

theorem brcMove_of_stuck {up : Bool} (h : s.brc.position ≠ if up then .top else .bottom) (hstuck : s.brc.stuck = true) :
    brcMove up s = (s, []) := by
  simp [brcMove, h, hstuck]

theorem brcMove_of_free {up : Bool} (h : s.brc.position ≠ if up then .top else .bottom) (hstuck : s.brc.stuck = false)
    (hbase : s.dcu.basePerm = true) : brcMove up s =
    ((setBrewer (if up then .up else .down) s).onBrc fun b =>
      { b with move := some { up := up, deadline := s.timeBase + s.conf.motionLimitS * 1000 } }, []) := by
  simp [brcMove, h, hstuck, hbase]

theorem brcArrived_of_idle {up : Bool} (h : s.brc.unit = .idle) : brcArrived up s = (s, []) := by
  simp only [brcArrived, h]

/-- Two reports, the second the answer to the first, whose writes the closing reports do not see. -/
theorem react_two_reports_calm (hs : s.Settled) {a b : Act} {u v w : State} (hstop : ∀ c, a ≠ .stopEvent c)
    (hperform : perform a u = (v, [b])) (hstop' : ∀ c, b ≠ .stopEvent c) (hperform' : perform b v = (w, []))
    (hcalm : w.calm = s.calm) : react (u, [a]) = w := by
  have hrun : ∀ rest, runActs 400 (a :: rest) u = runActs 398 rest w := by
    intro rest
    rw [runActs, nextActs_report hstop, hperform]
    exact runActs_report hstop' hperform' 398 rest
  unfold react
  split
  · exact (hrun settleActs).trans (runActs_idle _ _ (settled_perform (settled_of_calm hs hcalm)))
  · exact hrun []

/-! ### The obligation -/

theorem serviceDrive_pump {v : Nat} (h : v = 0 ∨ s.dcu.basePerm = true) :
    serviceDrive 2 v s = .ok (setPump v (s.onDcu fun u => { u with holds := { u.holds with pump := true } }), []) := by
  refine if_neg ?_
  rintro ⟨hv, hbase⟩
  rcases h with h | h
  · omega
  · simp [h] at hbase

theorem serviceDrive_grinder_off : serviceDrive 3 0 s = .ok (serviceGrindOff s) := rfl

theorem serviceDrive_grinder_on (h : s.grinderBarred = false) : serviceDrive 3 1 s = .ok (serviceGrindOn s) := by
  simp [serviceDrive, h]

theorem serviceDrive_grinder_barred (h : s.grinderBarred = true) : serviceDrive 3 1 s = .error .grinderBlocked := by
  simp [serviceDrive, h]

theorem serviceDrive_brewer_noBase {v : Nat} (hv : v ≠ 0) (h : s.dcu.basePerm = false) : serviceDrive 4 v s = .error .noBase := by
  simp [serviceDrive, hv, h]

theorem serviceDrive_brewer_move {v : Nat} (hv : v ≠ 0) (h : s.dcu.basePerm = true) :
    serviceDrive 4 v s = .ok (serviceMove (v == 1) s) := by
  simp [serviceDrive, hv, h]

/-- Settles O29: the answer of each channel, value and state of the permissions. -/
theorem serviceDriveActsOnOneChannel : Obligations.ServiceDriveActsOnOneChannel := by
  intro s channel value hline hs c v answers drives marked
  refine ⟨fun hmode => exec_serviceDrive hline (by rw [hmode]; rfl), fun hmode => exec_serviceDrive hline (by rw [hmode]; rfl),
    fun hmode h1 h7 => exec_serviceDrive hline ?_, fun hmode hc => exec_serviceDrive hline ?_, fun hmode h1 h7 => ?_⟩
  · rw [hmode]
    exact answerServiceDrive_of_serving h1 h7 (by simp [hmode])
  · rcases hmode with hmode | hmode <;> rw [hmode] <;> exact answerServiceDrive_of_outside hc
  have hanswer {a : Answer} (h : answerServiceDrive c v s = a) :
      exec (.serviceDrive channel value) s = .next (placeReply 14#8 5 a) :=
    exec_serviceDrive hline (by rw [hmode]; exact h)
  refine ⟨fun hsuits => hanswer ?_, fun hsuits => ?_⟩
  · rw [answerServiceDrive_of_service h1 h7 hmode, hsuits]
    rfl
  have herror {r : Result} (h : serviceDrive c v s = .error r) : answers r s [] :=
    hanswer (answerServiceDrive_of_error h1 h7 hmode hsuits h)
  have hdrives {e : Eff} {t : State} (h : serviceDrive c v s = .ok e) (ht : react e = t) : drives t :=
    hanswer ((answerServiceDrive_of_ok h1 h7 hmode hsuits h).trans (by rw [ht]; rfl))
  have hcalm {t : State} (h : serviceDrive c v s = .ok (t, [])) (ht : t.calm = s.calm) : drives t := hdrives h (react_calm hs ht)
  have hshows {t : State} {n : Nat} (h : drives t) (hn : channelValue c t = n) : answers .ok t (field1 n) := hn ▸ h
  refine ⟨fun hc => ?_, fun hc hv hbase => herror ?_, fun hc hv => ?_, fun hc => ?_, fun hc => ?_, fun hc => ?_,
    fun hc => ⟨fun hv hbar => herror ?_, fun hv hbar => ?_, fun hv hwish => ?_, fun hv hwish => ?_⟩,
    fun hc => ⟨fun hv => ?_, fun hv hbase => herror ?_, fun hv hbase => ?_⟩⟩
  · exact hshows (hcalm (by rw [hc]; rfl) rfl) (by rw [hc]; rfl)
  · rw [hc]
    exact if_pos ⟨hv, hbase⟩
  · refine hshows (hcalm (by rw [hc]; exact serviceDrive_pump hv) (by simp)) ?_
    rw [hc]
    exact congrArg Dcu.pump (setPump_dcu v)
  · refine hshows (hcalm (by rw [hc]; rfl) rfl) ?_
    rw [hc] at hsuits ⊢
    exact flagCode_of_le_one (of_decide_eq_true hsuits)
  · refine hshows (hcalm (by rw [hc]; rfl) rfl) ?_
    rw [hc] at hsuits ⊢
    exact flagCode_of_le_one (of_decide_eq_true hsuits)
  · refine hshows (hcalm (by rw [hc]; rfl) rfl) ?_
    rw [hc] at hsuits ⊢
    exact flagCode_of_le_one (of_decide_eq_true hsuits)
  · rw [hc, hv]
    exact serviceDrive_grinder_barred hbar
  · exact hdrives (by rw [hc, hv]; exact serviceDrive_grinder_on hbar) rfl
  · refine hdrives (by rw [hc, hv]; exact serviceDrive_grinder_off) ?_
    rw [serviceGrindOff_of_wish hwish]
    rfl
  · refine hcalm (by rw [hc, hv, serviceDrive_grinder_off, serviceGrindOff_of_none hwish]; rfl) ?_
    simp
  · exact hcalm (by rw [hc, hv]; rfl) rfl
  · rw [hc]
    exact serviceDrive_brewer_noBase (by omega) hbase
  · have hmove : serviceDrive c v s = .ok (serviceMove (v == 1) s) := by
      rw [hc]
      exact serviceDrive_brewer_move (by omega) hbase
    refine ⟨?_, fun hother => ?_⟩
    · rintro ⟨m, hm, hup⟩
      exact hcalm (hmove.trans (congrArg _ (serviceMove_of_same hm hup))) rfl
    · intro w goal
      have hw : w = movedFrom s := rfl
      obtain ⟨htime, hconf, hperm, hstuck, hunit, hwcalm⟩ := movedFrom_keeps (s := s)
      rw [← hw] at htime hconf hperm hstuck hunit hwcalm
      have hgoal : goal = if (v == 1) = true then .top else .bottom := by simp [goal]
      have hstart : serviceDrive c v s = .ok (w, [.brcMove (v == 1)]) := hmove.trans (congrArg _ (serviceMove_of_other hother))
      refine ⟨fun hat => ?_, fun hoff hs' => ?_, fun hoff hs' => ?_⟩
      · have harrived : perform (.brcMove (v == 1)) w = (w, [.brcArrived (v == 1)]) := brcMove_at (hat.trans hgoal)
        refine ⟨harrived, hdrives hstart rfl, fun hidle => hdrives hstart ?_⟩
        exact react_two_reports_calm hs (by simp) harrived (by simp) (brcArrived_of_idle (hunit.trans hidle)) hwcalm
      · refine hdrives hstart (react_report_calm hs (by simp) (brcMove_of_stuck (hgoal ▸ hoff) (hstuck.trans hs')) hwcalm)
      · refine hdrives hstart (react_report_calm hs (by simp) ?_ ?_)
        · refine (brcMove_of_free (hgoal ▸ hoff) (hstuck.trans hs') (hperm.trans hbase)).trans ?_
          rw [htime, hconf]
          simp only [beq_iff_eq]
          rfl
        · exact hwcalm

end Sys2Proof.Proofs
end

section
/-! ## Counting (R70 to R74, R76, R79 to R82) -/

namespace Sys2Proof.Proofs

open Sys2Proof Sys2Proof.Machine

variable {s t : State}

/-! ### Edges -/

/-- What an edge leaves of the monitor (R79). -/
def edgeMonitor (now : Nat) : Monitor → Monitor
  | .watch _ => .watch now
  | m => m

theorem edgeCounter_eq (n now : Nat) (k : Counter) :
    edgeCounter n now k = { k with
      count := n, monitor := edgeMonitor now k.monitor } := by
  unfold edgeCounter monitorEdge
  cases h : k.monitor <;> rfl

/-! ### The encoder -/

/-- The state after the levels of the encoder have changed. -/
def encoderTaken (a b : Bool) (s : State) : State := s.onPins fun p => { p with encA := a, encB := b }

/-- The new count of the grind counter after a step that counts (R71). -/
def encoderCount (old new count : Nat) : Nat := if (old + 1) % 4 = new then min 65535 (count + 1) else count - 1

theorem encoderChange_same {a b : Bool} (h : encoderPlace s.pins.encA s.pins.encB = encoderPlace a b) :
    encoderChange a b s = (encoderTaken a b s, []) := by
  simp only [encoderChange, h, beq_self_eq_true, Bool.or_true, if_true]
  rfl

theorem encoderChange_opposite {a b : Bool} (hw : s.working = true)
    (h : (encoderPlace s.pins.encA s.pins.encB + 2) % 4 = encoderPlace a b) : encoderChange a b s =
      ((encoderTaken a b s).onCnu fun u => { u with skips := min 255 (u.skips + 1) }, []) := by
  have hne : encoderPlace s.pins.encA s.pins.encB ≠ encoderPlace a b := by omega
  simp only [encoderChange, hw, h, beq_eq_false_iff_ne.mpr hne, Bool.not_true, Bool.or_self, Bool.false_eq_true, if_false,
    beq_self_eq_true, if_true]
  rfl

theorem encoderChange_step {a b : Bool} (hw : s.working = true) (hne : encoderPlace s.pins.encA s.pins.encB ≠ encoderPlace a b)
    (hopp : (encoderPlace s.pins.encA s.pins.encB + 2) % 4 ≠ encoderPlace a b) : encoderChange a b s =
      encoderMove (encoderPlace s.pins.encA s.pins.encB) (encoderPlace a b) (encoderTaken a b s) := by
  simp only [encoderChange, hw, beq_eq_false_iff_ne.mpr hne, beq_eq_false_iff_ne.mpr hopp, Bool.not_true, Bool.or_self,
    Bool.false_eq_true, if_false]
  rfl

theorem encoderMove_of_uncounted {old new : Nat}
    (h : countingStep s.conf.encoderMode old new ≠ true ∨ s.cnu.grind.run = .reached) : encoderMove old new s = (s, []) := by
  have hstill : (!countingStep s.conf.encoderMode old new || s.cnu.grind.run == .reached) = true := by
    simpa using h
  simp only [encoderMove, hstill, if_true]

theorem encoderMove_of_counted {old new : Nat} (hcounts : countingStep s.conf.encoderMode old new = true)
    (hrun : s.cnu.grind.run ≠ .reached) : encoderMove old new s =
      if reachesTarget s.cnu.grind (encoderCount old new s.cnu.grind.count)
      then terminalCount .grind (onCounter .grind (edgeCounter (encoderCount old new s.cnu.grind.count) s.timeBase) s)
      else (onCounter .grind (edgeCounter (encoderCount old new s.cnu.grind.count) s.timeBase) s, []) := by
  simp only [encoderMove, hcounts, beq_eq_false_iff_ne.mpr hrun, Bool.not_true, Bool.or_self, Bool.false_eq_true, if_false,
    beq_iff_eq]
  rfl

/-- A counter takes an edge. -/
theorem onCounter_edge (c : CounterId) (n now : Nat) (s : State) : onCounter c (edgeCounter n now) s =
    onCounter c (fun k => { k with
      count := n, monitor := edgeMonitor now k.monitor }) s :=
  congrArg (onCounter c · s) (funext (edgeCounter_eq n now))

/-- Settles O30: the step by its two places; the places and the modes over all pairs of levels. -/
theorem encoderStepsMoveTheGrindCount : Obligations.EncoderStepsMoveTheGrindCount := by
  refine ⟨?_, by decide⟩
  intro s a b hw hs old new k n counts moved counted
  have hedge : onCounter .grind (edgeCounter n s.timeBase) moved = counted := onCounter_edge .grind n s.timeBase moved
  refine ⟨fun hsame => next_react_calm hs (encoderChange_same hsame) rfl,
    fun hopp => next_react_calm hs (encoderChange_opposite hw hopp) rfl, fun hne hopp hstill => ?_,
    fun hne hopp hcounts hrun hreach => ?_, fun hne hopp hcounts hrun hreach => ?_⟩
  · exact next_react_calm hs ((encoderChange_step hw hne hopp).trans (encoderMove_of_uncounted (s := moved) hstill)) rfl
  · refine next_react_calm hs ((encoderChange_step hw hne hopp).trans ((encoderMove_of_counted (s := moved) hcounts hrun).trans ?_)) rfl
    exact (if_neg (ne_true_of_eq_false hreach)).trans (congrArg (·, []) hedge)
  · refine congrArg (fun e => Host.Outcome.next (react e))
      ((encoderChange_step hw hne hopp).trans ((encoderMove_of_counted (s := moved) hcounts hrun).trans ((if_pos hreach).trans ?_)))
    exact congrArg (terminalCount .grind) hedge

/-! ### The flow meter -/

theorem kindMark_setKindMark_of_marked {m : KindMarks} {j : CleanKind} (k : CleanKind) (h : kindMark m j = true) :
    kindMark (setKindMark m k true) j = true := by
  cases k <;> cases j <;> first | exact h | rfl

/-- The state after a kind has become due. -/
def dueMarked (k : CleanKind) (s : State) : State := s.onClc fun c => { c with due := setKindMark c.due k true }

theorem runnable_dueMarked {j : CleanKind} (k : CleanKind) (h : s.runnable j = true) : (dueMarked k s).runnable j = true := by
  simp only [State.runnable, Bool.and_eq_true] at h ⊢
  exact ⟨kindMark_setKindMark_of_marked k h.1, h.2⟩

theorem nextKind_dueMarked (k : CleanKind) (h : s.nextKind.isSome = true) : (dueMarked k s).nextKind.isSome = true := by
  simp only [State.nextKind, List.find?_isSome] at h ⊢
  obtain ⟨j, hj, hrun⟩ := h
  exact ⟨j, hj, runnable_dueMarked k hrun⟩

theorem startConditions_dueMarked (k : CleanKind) (h : s.startConditions = true) : (dueMarked k s).startConditions = true := by
  simp only [State.startConditions, Bool.and_eq_true, Bool.or_eq_true] at h ⊢
  obtain ⟨⟨⟨⟨⟨hkind, hmode⟩, hline⟩, hfault⟩, hstep⟩, hcups⟩ := h
  exact ⟨⟨⟨⟨⟨hkind.imp (nextKind_dueMarked k) id, hmode⟩, hline⟩, hfault⟩, hstep⟩, hcups⟩

/-- A kind that becomes due leaves a settled state settled: a wait for the clean slot goes on (R178). -/
theorem settled_setDue (k : CleanKind) (h : s.Settled) : (setDue k s).Settled := by
  unfold setDue
  split
  · exact h
  · exact settled_of_calm (s := dueMarked k s)
      ⟨h.cups, h.heat, h.regulator, fun hslot => startConditions_dueMarked k (h.slot hslot), h.need, h.standby⟩ (calm_postNotice _ _ _ _ _ _)

theorem settled_flowCount (h : s.Settled) : (flowCount s).Settled := by
  unfold flowCount
  have hwater (w : Nat) : (s.onClc fun u => { u with residue := 0, waterSinceDescale := w }).Settled := settled_of_calm h rfl
  split
  · exact settled_of_calm h rfl
  · dsimp only
    split
    · exact settled_setDue _ (hwater _)
    · exact hwater _

theorem flowRise_of_working (hw : s.working = true) : flowRise s =
    if reachesTarget s.cnu.flow (min 65535 (s.cnu.flow.count + 1))
    then terminalCount .flow (flowCount (onCounter .flow (edgeCounter (min 65535 (s.cnu.flow.count + 1)) s.timeBase) s))
    else (flowCount (onCounter .flow (edgeCounter (min 65535 (s.cnu.flow.count + 1)) s.timeBase) s), []) := by
  simp only [flowRise, hw]
  rfl

/-- A reset takes the flow count to 0 (R86). -/
theorem resetAssert_flow_count (hline : s.pins.resetAsserted = false) (intact : Bool) : (resetAssert intact s).cnu.flow.count = 0 := by
  simp only [resetAssert, hline, Bool.false_eq_true, if_false]
  split <;> rfl

/-- Settles O31: an edge by whether it reaches the target; the count is 0 after arming and after a reset. -/
theorem flowEdgesAreCounted : Obligations.FlowEdgesAreCounted := by
  refine ⟨?_, fun _ _ _ => rfl, rfl, fun s hline intact => ⟨_, rfl, resetAssert_flow_count hline intact⟩⟩
  intro s hw hs k n counted
  have hedge : flowCount (onCounter .flow (edgeCounter n s.timeBase) s) = counted := congrArg flowCount (onCounter_edge .flow n _ s)
  refine ⟨fun hreach => ?_, fun hreach => ?_⟩ <;> refine (next_whenWorking hw flowRise).trans ?_ <;> rw [flowRise_of_working hw]
  · rw [if_neg (ne_true_of_eq_false hreach)]
    refine congrArg Host.Outcome.next ((react_settled (settled_flowCount (settled_of_calm hs ?_))).trans hedge)
    exact calm_onCounter _ _ _
  · rw [if_pos hreach]
    exact congrArg (fun u => Host.Outcome.next (react (terminalCount .flow u))) hedge

/-! ### Arming and watching -/

theorem arm_of_armed {c : CounterId} {o : Owner} {target : Nat} (h : armedRun (s.counter c) = true) :
    arm c o target s = ((endRun c .disarm s).1, (endRun c .disarm s).2 ++ [.cnuArmCommit c o target]) := if_pos h

theorem arm_of_free {c : CounterId} {o : Owner} {target : Nat} (h : armedRun (s.counter c) = false) :
    arm c o target s = (armCommit c o target s, []) := if_neg (ne_true_of_eq_false h)

/-- The run time is the quotient, rounded up (R82). -/
theorem runTime_rounds_up {rate : Nat} (counts : Nat) (h : 0 < rate) :
    counts * 100 ≤ runTime rate counts * rate ∧ runTime rate counts * rate < counts * 100 + rate := by
  have hdiv := Nat.div_add_mod (counts * 100 + rate - 1) rate
  have hmod := Nat.mod_lt (counts * 100 + rate - 1) h
  rw [Nat.mul_comm] at hdiv
  unfold runTime
  omega

theorem lossTrip_of_waiting {c : CounterId} (hc : c = .grind) (hovld : s.pins.grOvld = true) :
    lossTrip c s = onCounter c (fun k => { k with monitor := .watch s.timeBase }) s := if_pos ⟨hc, hovld⟩

theorem lossTrip_of_tripped {c : CounterId} (h : c = .flow ∨ s.pins.grOvld = false) :
    lossTrip c s = postNotice .degraded none (lossCode c) 0 0 (onCounter c (trippedCounter s.timeBase) s) := by
  refine if_neg ?_
  rintro ⟨rfl, hovld⟩
  simp [hovld] at h

/-- Settles O33: arming by whether a run is armed; the timers of the monitor and of a timed run. -/
theorem runsAreArmedAndWatched : Obligations.RunsAreArmedAndWatched := by
  intro s c
  refine ⟨fun o target => ⟨arm_of_armed, arm_of_free, rfl, fun rate counts h => runTime_rounds_up counts h⟩,
    fun hs => ⟨fun hdue => ?_, fun hdue hc hovld => ?_, fun hdue hc => ?_, fun hdue => ?_⟩⟩
  · exact next_onDue_calm hdue hs (f := fun s => (spinUpDone c s, [])) rfl (calm_onCounter _ _ _)
  · exact next_onDue_calm hdue hs (f := fun s => (lossTrip c s, [])) (congrArg (·, []) (lossTrip_of_waiting hc hovld))
      (calm_onCounter _ _ _)
  · refine next_onDue_calm hdue hs (f := fun s => (lossTrip c s, [])) (congrArg (·, []) (lossTrip_of_tripped hc)) ?_
    simp
  · refine (next_onDue hdue (timeEnd c)).trans ?_
    cases c <;> rfl

end Sys2Proof.Proofs
end

section
/-! ## Grinding (R59, R66, R89, R90, R92 to R102) -/

namespace Sys2Proof.Proofs

open Sys2Proof Sys2Proof.Machine

variable {s t : State} {j : GrindJob}

/-! ### Target and acceptance -/

/-- The strength factors 80 to 120 per cent (R89). -/
theorem grindTarget_table (c : Cfg) {dose strength : Nat} (h1 : 1 ≤ strength) (h5 : strength ≤ 5) : grindTarget c dose strength =
    min 65535 (max 1 (dose * c.countsPerDecigram * [0, 80, 90, 100, 110, 120].getD strength 0 / 100)) := by
  obtain rfl | rfl | rfl | rfl | rfl : strength = 1 ∨ strength = 2 ∨ strength = 3 ∨ strength = 4 ∨ strength = 5 := by omega
  all_goals rfl

theorem grindTarget_examples (c : Cfg) : (c.countsPerDecigram = 4 → grindTarget c 90 3 = 360 ∧ grindTarget c 90 4 = 396)
    ∧ (c.countsPerDecigram = 5 → grindTarget c 72 1 = 288) ∧ (c.countsPerDecigram = 1 → grindTarget c 1 1 = 1)
    ∧ (c.countsPerDecigram = 255 → grindTarget c 250 5 = 65535) := by
  simp +contextual [grindTarget]

theorem grindAccept_closed {order recipe strength : Nat} (hlid : s.pins.lidOpen = false) : grindAccept order recipe strength s =
    (s.onGrc fun g => { g with
      state := .waitPower
      job := some { order := order, recipe := recipe, strength := strength,
                    target := grindTarget s.conf (s.recipe recipe).dose strength }
      waitDeadline := some (s.timeBase + s.conf.grindPowerWaitS * 1000) }, [.stuGrindWish true]) :=
  if_neg (ne_true_of_eq_false hlid)

theorem grindAccept_open {order recipe strength : Nat} (hlid : s.pins.lidOpen = true) : grindAccept order recipe strength s =
    (grcIdle s, [.oruGrindReport
      { order := order, outcome := .failed .lidOpen, count := 0, mode := .counted,
        target := grindTarget s.conf (s.recipe recipe).dose strength }]) :=
  if_pos hlid

/-! ### Starting a grind -/

theorem grcGranted_of_waiting (hstate : s.grc.state = .waitPower) (hjob : s.grc.job = some j) :
    grcGranted s = (s, [.cnuArm .grind .grc j.target, .grcStartGrinder]) := by
  simp [grcGranted, hstate, hjob]

theorem grcStartGrinder_of_free (hstate : s.grc.state = .waitPower) (hbar : (s.grinderBarred || !s.dcu.grindPerm) = false) :
    grcStartGrinder s = ((setGrinder true s).onGrc fun g => { g with state := .run, waitDeadline := none }, []) := by
  simp only [grcStartGrinder, hstate, grinderOn, hbar]
  rfl

/-- Why a grind that GRINDER refuses fails (R93). -/
def refusedOutcome (s : State) : GrindOutcome :=
  if s.pins.lidOpen then .failed .lidOpen else if s.pins.grOvld then .failed .grinderOverload else .failed .noPower

theorem grcStartGrinder_of_barred (hstate : s.grc.state = .waitPower) (hbar : (s.grinderBarred || !s.dcu.grindPerm) = true) :
    grcStartGrinder s = failRun (refusedOutcome s) (!s.pins.lidOpen && s.pins.grOvld) s := by
  simp only [grcStartGrinder, hstate, grinderOn, hbar, refusedOutcome]
  cases s.pins.lidOpen <;> cases s.pins.grOvld <;> rfl

/-! ### The end of a run -/

theorem grindReport_of_job (hjob : s.grc.job = some j) (o : GrindOutcome) (count : Nat) (mode : RunMode) : grindReport s o count mode =
    [.oruGrindReport { order := j.order, outcome := o, count := count, mode := mode, target := j.target }] := by
  simp only [grindReport, hjob]

theorem grcRunEnded_of_done {cap : Capture} (hstate : s.grc.state = .run) (hcause : cap.cause = .target ∨ cap.cause = .time) :
    grcRunEnded cap s = ((grindClosed s).onGrc fun g => { g with overloads := 0 },
      [.stuGrindWish false] ++ grindReport s .done cap.count cap.mode) := by
  rcases hcause with hcause | hcause <;> simp only [grcRunEnded, hstate, hcause]

theorem grcRunEnded_of_stop {cap : Capture} (hstate : s.grc.state = .run) (hcause : cap.cause = .stop) :
    grcRunEnded cap s = (grindClosed s, [.stuGrindWish false] ++ grindReport s .cancelled cap.count cap.mode) := by
  simp only [grcRunEnded, hstate, hcause]

theorem grcRunEnded_of_held {cap : Capture} {o : GrindOutcome} (hstate : s.grc.state = .stop) (hheld : s.grc.held = some o) :
    grcRunEnded cap s = (grindClosed s, grindReport s o cap.count cap.mode) := by
  simp only [grcRunEnded, hstate, hheld, Option.getD_some]

theorem grcRunEnded_of_idle {cap : Capture} (hstate : s.grc.state = .idle ∨ s.grc.state = .waitPower) :
    grcRunEnded cap s = (s, []) := by
  rcases hstate with hstate | hstate <;> simp only [grcRunEnded, hstate]

/-- Settles O34: the target, the acceptance, the start and the end, each by the state of the grind and the lines. -/
theorem grindTargetFollowsTheDose : Obligations.GrindTargetFollowsTheDose := by
  refine ⟨fun c dose strength => grindTarget_table c, grindTarget_examples,
    fun s order recipe strength => ⟨grindAccept_closed, grindAccept_open⟩, ?_⟩
  intro s j hjob barred closed
  refine ⟨fun hstate => ⟨if_neg hstate, if_pos hstate⟩, fun hstate => ⟨grcGranted_of_waiting hstate hjob,
    fun hbar => grcStartGrinder_of_free hstate hbar, fun hbar => grcStartGrinder_of_barred hstate hbar⟩, ?_⟩
  intro cap report
  have hreport (o : GrindOutcome) : grindReport s o cap.count cap.mode = [report o] := grindReport_of_job hjob o _ _
  refine ⟨fun hstate hcause => (grcRunEnded_of_done hstate hcause).trans ?_,
    fun hstate hcause => (grcRunEnded_of_stop hstate hcause).trans ?_,
    fun o hstate hheld => (grcRunEnded_of_held hstate hheld).trans ?_, grcRunEnded_of_idle⟩ <;> rw [hreport] <;> rfl

/-! ### Overloads and cancels -/

@[simp] theorem setGrinder_pins (b : Bool) (s : State) : (setGrinder b s).pins = s.pins := by
  unfold setGrinder monitorDriven monitorReleased onCounter
  repeat' split
  all_goals rfl

/-- GRINDER OFF leaves the run of the grind counter (R79). -/
theorem setGrinder_off_run : (setGrinder false s).cnu.grind.run = s.cnu.grind.run := by
  rw [setGrinder_off]
  show (if s.dcu.grinder then { s.cnu.grind with monitor := .off } else s.cnu.grind).run = _
  split <;> rfl

@[simp] theorem endRun_grc (c : CounterId) (cause : EndCause) (s : State) : (endRun c cause s).1.grc = s.grc := by
  cases c <;> rfl

/-- A grind that gives up: GRINDER OFF, the outcome held (R93, R95). -/
def grindGivenUp (o : GrindOutcome) (s : State) : State :=
  (setGrinder false s).onGrc fun g => { g with state := .stop, waitDeadline := none, held := some o }

/-- The disarm of a grind that gives up (R76). -/
def grindDisarmed (o : GrindOutcome) (s : State) : Eff :=
  if s.cnu.grind.run = .counting ∨ s.cnu.grind.run = .timed then endRun .grind .disarm (grindGivenUp o s) else (grindGivenUp o s, [])

theorem disarm_grindGivenUp (o : GrindOutcome) : disarm .grind (grindGivenUp o s) = grindDisarmed o s := by
  have harmed : armedRun ((grindGivenUp o s).counter .grind) = true ↔ s.cnu.grind.run = .counting ∨ s.cnu.grind.run = .timed := by
    show (_ == _ || _ == _) = true ↔ _
    rw [Bool.or_eq_true, beq_iff_eq, beq_iff_eq]
    show (setGrinder false s).cnu.grind.run = _ ∨ (setGrinder false s).cnu.grind.run = _ ↔ _
    rw [setGrinder_off_run]
  simp only [disarm, harmed, grindDisarmed]

theorem failRun_eq (o : GrindOutcome) (overload : Bool) : failRun o overload s =
    (let f := if overload then countOverload (grindDisarmed o s).1 else ((grindDisarmed o s).1, [])
     (f.1, f.2 ++ [.stuGrindWish false] ++ (grindDisarmed o s).2)) := by
  rw [← disarm_grindGivenUp]
  rfl

theorem grindDisarmed_grc (o : GrindOutcome) : (grindDisarmed o s).1.grc.overloads = s.grc.overloads
    ∧ (grindDisarmed o s).1.grc.job = s.grc.job := by
  have hgiven : (grindGivenUp o s).grc.overloads = s.grc.overloads ∧ (grindGivenUp o s).grc.job = s.grc.job := by
    simp only [grindGivenUp, State.onGrc, setGrinder_grc, and_self]
  unfold grindDisarmed
  split
  · rw [endRun_grc]
    exact hgiven
  · exact hgiven

theorem countOverload_first (h : s.grc.overloads = 0) : countOverload s = (s.onGrc fun g => { g with overloads := 1 }, []) := by
  simp [countOverload, h]

theorem countOverload_second (h : 1 ≤ s.grc.overloads) : countOverload s =
    (s.onGrc fun g => { g with overloads := 2, fault := true },
     [.stopEvent .grinderFault, .post .fault (s.grc.job.map GrindJob.order) 10 0 0, .oruFaultSet]) := by
  have hcount : min 2 (s.grc.overloads + 1) = 2 := by omega
  simp only [countOverload, hcount, Nat.le_refl, if_true]
  rfl

theorem cancelGrindAnswer_of_job (hjob : s.grc.job = some j) : s.cancelGrindAnswer j.order =
    (match s.grc.state with
     | .idle => .noRun
     | .waitPower | .run => .ok
     | .stop => .ending) := by
  simp only [State.cancelGrindAnswer, hjob, Option.map_some, ne_eq, not_true_eq_false, if_false] <;> rfl

theorem cancelGrindAnswer_noRun {n : Nat} (h : s.grc.state = .idle ∨ ∀ j, s.grc.job = some j → j.order ≠ n) :
    s.cancelGrindAnswer n = .noRun := by
  unfold State.cancelGrindAnswer
  split
  · rfl
  · next hsame =>
    rcases h with hidle | hother
    · simp only [hidle]
    · cases hjob : s.grc.job with
      | none => simp [hjob] at hsame
      | some j => simp [hjob, hother j hjob] at hsame

theorem cancelGrind_of_ok {n : Nat} (h : s.cancelGrindAnswer n = .ok) :
    cancelGrind n s = ((cancelledGrind s).1, (cancelledGrind s).2 ++ [.brcGrindCancelAnswer .ok]) := by
  simp only [cancelGrind, h, if_true]

theorem cancelGrind_of_refused {n : Nat} {a : GrindCancelAnswer} (h : s.cancelGrindAnswer n = a) (ha : a ≠ .ok) :
    cancelGrind n s = (s, [.brcGrindCancelAnswer a]) := by
  simp only [cancelGrind, h, ha, if_false, List.nil_append]

/-- Settles O36: the overload counted is the first or a later one; the cancel by the state of the grind. -/
theorem overloadsSetTheGrinderFault : Obligations.OverloadsSetTheGrinderFault := by
  intro s o u e
  have he : e = grindDisarmed o s := rfl
  obtain ⟨hoverloads, hjob⟩ := grindDisarmed_grc (s := s) o
  rw [← he] at hoverloads hjob
  refine ⟨failRun_eq o false, fun hnone => (failRun_eq o true).trans ?_, fun hsome => (failRun_eq o true).trans ?_, fun _ => rfl,
    fun n hn => cancelGrind_of_refused (cancelGrindAnswer_noRun hn) (by decide), fun j hj => ?_⟩
  · show ((countOverload e.1).1, (countOverload e.1).2 ++ [.stuGrindWish false] ++ e.2) = _
    rw [countOverload_first (hoverloads.trans hnone)]
    rfl
  · show ((countOverload e.1).1, (countOverload e.1).2 ++ [.stuGrindWish false] ++ e.2) = _
    rw [countOverload_second (hoverloads ▸ hsome), hjob]
    rfl
  · have hanswer := cancelGrindAnswer_of_job hj
    refine ⟨fun hstate => ?_, fun hstate => ?_, fun hstate => ?_⟩ <;> rw [hstate] at hanswer
    · refine (cancelGrind_of_ok hanswer).trans ?_
      simp only [cancelledGrind, hstate, endWaiting, grindReport_of_job hj]
      rfl
    · refine (cancelGrind_of_ok hanswer).trans ?_
      simp only [cancelledGrind, hstate]
    · exact cancelGrind_of_refused hanswer (by decide)

/-! ### The lid, the overload line, the power wait -/

section Lines

variable (hw : s.working = true)

include hw

theorem lidChange_of_opened (hlid : s.pins.lidOpen = false) : lidChange true s =
    (let u := grinderLineAsserted (s.onPins fun p => { p with lidOpen := true })
     match s.grc.state with
     | .waitPower => endWaiting (.failed .lidOpen) u
     | .run => failRun (.failed .lidOpen) false u
     | .idle | .stop => clearServiceWish u) := by
  simp only [lidChange, hlid, hw, Bool.not_true, Bool.or_self, Bool.false_eq_true, if_false] <;> rfl

theorem overloadChange_of_asserted (hovld : s.pins.grOvld = false) : overloadChange true s =
    (let u := grinderLineAsserted (s.onPins fun p => { p with grOvld := true })
     match s.grc.state with
     | .run => failRun (.failed .grinderOverload) true u
     | .waitPower => (u, [])
     | .idle | .stop =>
       if s.dcu.serviceGrind && s.dcu.grinder then
         ((countOverload (clearServiceWish u).1).1, (clearServiceWish u).2 ++ (countOverload (clearServiceWish u).1).2)
       else clearServiceWish u) := by
  simp only [overloadChange, hovld, hw, Bool.not_true, Bool.or_self, Bool.false_eq_true, if_false] <;> rfl

end Lines

theorem lidChange_of_level {b : Bool} (h : b = false ∨ s.pins.lidOpen = true) :
    lidChange b s = (s.onPins fun p => { p with lidOpen := b }, []) := by
  rcases h with h | h <;> simp [lidChange, h]

theorem overloadChange_of_level {b : Bool} (h : b = false ∨ s.pins.grOvld = true) :
    overloadChange b s = (s.onPins fun p => { p with grOvld := b }, []) := by
  rcases h with h | h <;> simp [overloadChange, h]

theorem grinderLineAsserted_grc (s : State) : (grinderLineAsserted s).grc = s.grc := setGrinder_grc false s

@[simp] theorem calm_grinderLineAsserted (s : State) : (grinderLineAsserted s).calm = s.calm := calm_setGrinder false s

theorem clearServiceWish_of_wish (h : s.grc.serviceWish = true) :
    clearServiceWish s = (s.onGrc fun g => { g with serviceWish := false }, [.stuGrindWish false]) := if_pos h

theorem clearServiceWish_of_none (h : s.grc.serviceWish = false) : clearServiceWish s = (s, []) :=
  if_neg (ne_true_of_eq_false h)

theorem waiting_of_dueGrindPower (h : s.dueGrindPower = true) : s.grc.state = .waitPower := by
  simp only [State.dueGrindPower, Bool.and_eq_true, beq_iff_eq] at h
  exact h.1.2

theorem grindPowerEnd_of_waiting (hstate : s.grc.state = .waitPower) (hjob : s.grc.job = some j) : grindPowerEnd s =
    (grcIdle s, [.stuGrindWish false,
      .oruGrindReport { order := j.order, outcome := .failed .noPower, count := 0, mode := .counted, target := j.target }]) := by
  simp only [grindPowerEnd, hstate, if_true, endWaiting, grindReport_of_job hjob]
  rfl

/-- Settles O35: each line by the level that it had and the state of the grind. -/
theorem lidOverloadAndPowerWaitEndTheGrind : Obligations.LidOverloadAndPowerWaitEndTheGrind := by
  intro s j hw hs lid ovld off lowered
  have hsettles {e e' : Eff} (h : e = e') : (Host.Outcome.next (react e) : Out) = .next (react e') :=
    congrArg (fun e => Host.Outcome.next (react e)) h
  refine ⟨next_react_calm hs (lidChange_of_level (.inl rfl)) rfl, next_react_calm hs (overloadChange_of_level (.inl rfl)) rfl,
    fun hlid => ?_, fun hovld => ?_, fun hlid => ⟨fun hstate hjob => hsettles ?_, fun hstate => hsettles ?_, fun hstate => ?_⟩,
    fun hovld => ⟨fun hstate => ?_, fun hstate => hsettles ?_, fun hstate hservice => ?_, fun hstate hservice => ?_⟩,
    fun hdue hjob => ?_⟩
  · refine next_react_calm hs ((lidChange_of_level (.inr hlid)).trans (congrArg (·, []) ?_)) rfl
    rw [← hlid]
    rfl
  · refine next_react_calm hs ((overloadChange_of_level (.inr hovld)).trans (congrArg (·, []) ?_)) rfl
    rw [← hovld]
    rfl
  · rw [lidChange_of_opened hw hlid, hstate]
    show endWaiting _ (grinderLineAsserted (lid true)) = _
    rw [endWaiting, grindReport_of_job (j := j) (by rw [grinderLineAsserted_grc]; exact hjob)]
    rfl
  · rw [lidChange_of_opened hw hlid, hstate]
    rfl
  · have hchange : lidChange true s = clearServiceWish (off (lid true)) := by
      rw [lidChange_of_opened hw hlid]
      rcases hstate with hstate | hstate <;> rw [hstate] <;> rfl
    have hgrc : (off (lid true)).grc = s.grc := grinderLineAsserted_grc (lid true)
    refine ⟨fun hwish => hsettles (hchange.trans (clearServiceWish_of_wish (hgrc ▸ hwish))),
      fun hwish => next_react_calm hs (hchange.trans (clearServiceWish_of_none (hgrc ▸ hwish))) (calm_grinderLineAsserted _)⟩
  · refine next_react_calm hs (e := overloadChange true s) ?_ (calm_grinderLineAsserted (ovld true))
    rw [overloadChange_of_asserted hw hovld, hstate]
    rfl
  · rw [overloadChange_of_asserted hw hovld, hstate]
    rfl
  · have hchange : overloadChange true s = clearServiceWish (off (ovld true)) := by
      rw [overloadChange_of_asserted hw hovld]
      rcases hstate with hstate | hstate <;> rw [hstate, hservice] <;> rfl
    have hgrc : (off (ovld true)).grc = s.grc := grinderLineAsserted_grc (ovld true)
    refine ⟨fun hwish => hsettles (hchange.trans (clearServiceWish_of_wish (hgrc ▸ hwish))),
      fun hwish => next_react_calm hs (hchange.trans (clearServiceWish_of_none (hgrc ▸ hwish))) (calm_grinderLineAsserted _)⟩
  · intro e
    have hgrc : (off (ovld true)).grc = s.grc := grinderLineAsserted_grc (ovld true)
    have he : clearServiceWish (off (ovld true)) = e := by
      show (if (off (ovld true)).grc.serviceWish then _ else _) = _
      rw [hgrc]
    refine hsettles ?_
    rw [← he, overloadChange_of_asserted hw hovld]
    rcases hstate with hstate | hstate <;> rw [hstate, hservice] <;> rfl
  · refine (next_onDue hdue grindPowerEnd).trans (hsettles ?_)
    exact grindPowerEnd_of_waiting (waiting_of_dueGrindPower hdue) hjob

end Sys2Proof.Proofs
end

section
/-! ## Brewing and the boiler (R58, R104 to R120, R133, R134) -/

namespace Sys2Proof.Proofs

open Sys2Proof Sys2Proof.Machine

variable {s t : State}

/-! ### End switches and the move deadline -/

/-- The end switches and the position that they show. -/
def switched (top bottom : Bool) (s : State) : State :=
  (s.onPins fun p => { p with brTop := top, brBot := bottom }).onBrc fun b =>
    { b with position := if top && !bottom then .top else if !top && bottom then .bottom else .between }

theorem stuckLatch_of_free {code : Nat} (h : s.brc.stuck = false) : stuckLatch code s =
    (s.onBrc fun b => { b with stuck := true },
     [.stopEvent .brewerStuck, .post .fault (s.cupRun.map CupRun.order) 8 code 0, .oruFaultSet]) :=
  if_neg (ne_true_of_eq_false h)

theorem stuckLatch_of_set {code : Nat} (h : s.brc.stuck = true) : stuckLatch code s = (s, []) := if_pos h

theorem switchChange_both (hw : s.working = true) : switchChange true true s = stuckLatch 2 (switched true true s) := by
  simp only [switchChange, hw]
  rfl

theorem switchChange_of_arrived {top bottom : Bool} {m : Move} (hw : s.working = true) (hboth : (top && bottom) = false)
    (hmove : s.brc.move = some m) (hend : (if m.up then top else bottom) = true) : switchChange top bottom s =
    (((switched top bottom s).onDcu fun d => { d with brewer := .stop }).onBrc fun b => { b with move := none },
     [.brcArrived m.up]) := by
  have harrived : ((m.up && top) || (!m.up && bottom)) = true := by
    cases hup : m.up <;> simp_all
  simp only [switchChange, hw, hboth, hmove, harrived]
  rfl

theorem switchChange_of_moving {top bottom : Bool} {m : Move} (hw : s.working = true) (hboth : (top && bottom) = false)
    (hmove : s.brc.move = some m) (hend : (if m.up then top else bottom) = false) :
    switchChange top bottom s = (switched top bottom s, []) := by
  have hgoing : ((m.up && top) || (!m.up && bottom)) = false := by
    cases hup : m.up <;> simp_all
  simp only [switchChange, hw, hboth, hmove, hgoing]
  rfl

theorem switchChange_of_still {top bottom : Bool} (hw : s.working = true) (hboth : (top && bottom) = false)
    (hmove : s.brc.move = none) : switchChange top bottom s = (switched top bottom s, []) := by
  simp only [switchChange, hw, hboth, hmove]
  rfl

theorem move_of_dueMotion (h : s.dueMotion = true) : s.brc.move.isSome = true := by
  simp only [State.dueMotion, Bool.and_eq_true] at h
  obtain ⟨_, hany⟩ := h
  cases hm : s.brc.move with
  | none => simp [hm] at hany
  | some m => rfl

theorem moveTimeout_of_move (h : s.brc.move.isSome = true) : moveTimeout s = stuckLatch 1 s := if_pos h

/-- Settles O37: the switches by whether both are asserted and what move is in hand; the deadline by the latch. -/
theorem endSwitchesEndTheMove : Obligations.EndSwitchesEndTheMove := by
  intro s top bottom hw hs u stuck
  have hsettles {e e' : Eff} (h : e = e') : (Host.Outcome.next (react e) : Out) = .next (react e') :=
    congrArg (fun e => Host.Outcome.next (react e)) h
  refine ⟨?_, fun hboth => ⟨fun m hm hend => hsettles (switchChange_of_arrived hw hboth hm hend),
    fun m hm hend => next_react_calm hs (switchChange_of_moving hw hboth hm hend) rfl,
    fun hm => next_react_calm hs (switchChange_of_still hw hboth hm) rfl⟩, fun hdue hfree => ?_, fun hdue hset => ?_⟩
  · rintro rfl rfl
    exact ⟨fun hfree => hsettles ((switchChange_both hw).trans (stuckLatch_of_free hfree)),
      fun hset => next_react_calm hs ((switchChange_both hw).trans (stuckLatch_of_set hset)) rfl⟩
  · exact (next_onDue hdue moveTimeout).trans
      (hsettles ((moveTimeout_of_move (move_of_dueMotion hdue)).trans (stuckLatch_of_free hfree)))
  · exact next_onDue_calm hdue hs ((moveTimeout_of_move (move_of_dueMotion hdue)).trans (stuckLatch_of_set hset)) rfl

/-! ### The end of a cup run at the order unit -/

theorem isMade_iff (outcome : OrderOutcome) : isMade outcome = true ↔ outcome = .delivered ∨ outcome = .short := by
  cases outcome <;> simp [isMade]

theorem pyuClose_of_unpaid {o : Order} {delivered : Bool} (h : o.debitSeq = none) : pyuClose o delivered s = s := by
  simp only [pyuClose, h]

theorem pyuClose_of_debited {o : Order} {delivered : Bool} (h : o.debitSeq ≠ none) : pyuClose o delivered s =
    reserveDown 1 (if delivered then appendEntry .delivered (o.badge.getD 0#32) o.price (some o.number) (some o.recipe)
        (match o.grind with
         | some (.report g) => some g.mode
         | _ => none) none false s
      else appendRefundDue (o.badge.getD 0#32) o.price o.number s) := by
  cases hd : o.debitSeq with
  | none => exact absurd hd h
  | some _ => simp only [pyuClose, hd] <;> rfl

/-- What the payment unit does at a close, by whether the order was debited and delivered (R160). -/
theorem pyuClose_eq (o : Order) (delivered : Bool) (s : State) : pyuClose o delivered s =
    if o.debitSeq = none then s
    else reserveDown 1 (if delivered then appendEntry .delivered (o.badge.getD 0#32) o.price (some o.number) (some o.recipe)
        (match o.grind with
         | some (.report g) => some g.mode
         | _ => none) none false s
      else appendRefundDue (o.badge.getD 0#32) o.price o.number s) := by
  by_cases h : o.debitSeq = none
  · rw [if_pos h, pyuClose_of_unpaid h]
  · rw [if_neg h, pyuClose_of_debited h]

theorem oruRunEnd_of_running {o : Order} {report : RunEnd} (h : s.runningOrder = some o) :
    oruRunEnd report s = if o.number = report.order then closeOrder o report.outcome s else (s, []) := by
  simp only [oruRunEnd, h]

/-- The queue without an order (R134). -/
def withoutOrder (o : Order) (s : State) : State := s.onOru fun u => { u with queue := u.queue.filter fun q => q.number != o.number }

theorem closeOrder_eq (o : Order) (outcome : OrderOutcome) (s : State) : closeOrder o outcome s =
    (if outcome = .delivered ∨ outcome = .short then cupMade (pyuClose o (outcome == .delivered) (withoutOrder o s))
     else pyuClose o (outcome == .delivered) (withoutOrder o s),
     [.post .orderClosed (some o.number) (outcomeCode outcome) (outcomeReason outcome) 0, .oruCupPending]
       ++ (if o.state = .running then [.oruStart] else [])) := by
  simp only [closeOrder, isMade_iff]
  rfl

/-! ### The states of the cup run -/

section Run

variable {r : CupRun} (h : s.cupRun = some r)

include h

theorem runState_eq (st : RunState) (d : Option Nat) : runState st d s =
    s.onBrc fun b => { b with run := some { r with state := st, deadline := d, waiting := false } } :=
  setRun_of_run _ (cup_of_cupRun h).2

/-- A state of the cup run is entered by its row (R107). -/
theorem brcEnter_of_run (st : RunState) : brcEnter st s = (match st with
    | .home => (phaseSet .idle (runState .home none s), [.brcHeat, .brcMove true])
    | .grind => (phaseSet .idle (runState .grind none s), [.oruGrindReady])
    | .close => (phaseSet .idle (runState .close none s), [.brcHeat, .brcMove false])
    | .prewet =>
      if (s.runRecipe r).prewet = 0 then (s, [.brcEnter .soak])
      else
        (phaseSet .prewet (runState .prewet (some (s.timeBase + s.conf.extractionLimitS * 1000)) s),
         [.cnuArm .flow .brc (s.flowTarget (s.runRecipe r).prewet)])
    | .soak =>
      if (s.runRecipe r).soak = 0 then (s, [.brcEnter .heatWait])
      else (phaseSet .soak (runState .soak (some (s.timeBase + (s.runRecipe r).soak * 1000)) s), [])
    | .heatWait =>
      if s.brc.regulator = .ready then (runState .heatWait none s, [.brcEnter .extract])
      else (runState .heatWait (some (s.timeBase + s.conf.heatWaitS * 1000)) s, [])
    | .extract =>
      (phaseSet .extract (runState .extract (some (s.timeBase + s.conf.extractionLimitS * 1000)) s),
       [.cnuArm .flow .brc (s.flowTarget (recipeVolume (s.runRecipe r) r.size))])
    | .drain => (phaseSet .drain (runState .drain (some (s.timeBase + s.conf.drainTimeS * 1000)) s), [.brcHeat])
    | .eject => (phaseSet .eject (runState .eject none s), [.brcHeat, .brcEject])) := by
  simp only [brcEnter, h] <;> rfl

theorem endCupRun_none : endCupRun .none s = (s, [.oruRunEnd (runEnd r .none), .brcUnitIdle]) := by
  simp only [endCupRun, h]
  rfl

theorem endCupRun_retained : endCupRun .retained s =
    ((countPuck s).onBrc fun b => { b with retained := true }, [.oruRunEnd (runEnd r .retained), .brcUnitIdle]) := by
  simp only [endCupRun, h]
  rfl

theorem endCupRun_dropped : endCupRun .dropped s = (countPuck s, [.oruRunEnd (runEnd r .dropped), .brcUnitIdle]) := by
  simp only [endCupRun, h]
  rfl

theorem brcProceed_of_empty (hgrounds : r.grounds = false) : brcProceed s = endCupRun .none s := by
  simp only [brcProceed, h, hgrounds]
  rfl

theorem brcProceed_of_clean_out (hgrounds : r.grounds = true) (hbase : s.dcu.basePerm = true) (hstuck : s.brc.stuck = false) :
    brcProceed s = (s.onBrc fun b => { b with run := some { r with cleanOut := true } },
      [.brcEnter (if s.brc.position = .bottom then .eject else .close)]) := by
  simp only [brcProceed, h, hgrounds, hbase, hstuck, setRun_of_run _ (cup_of_cupRun h).2]
  rfl

theorem brcProceed_of_retained (hgrounds : r.grounds = true) (hbar : s.dcu.basePerm = false ∨ s.brc.stuck = true) :
    brcProceed s = endCupRun .retained s := by
  have hbarred : (s.dcu.basePerm && !s.brc.stuck) = false := by
    rcases hbar with hbar | hbar <;> simp [hbar]
  simp only [brcProceed, h, hgrounds, hbarred]
  rfl

theorem state_of_dueRun {st : RunState} (hdue : s.dueRun st = true) : r.state = st := by
  simp only [State.dueRun, h, Option.any_some, Bool.and_eq_true, beq_iff_eq] at hdue
  exact hdue.2.1

theorem brcArrived_of_eject (hstate : r.state = .eject) : brcArrived true s =
    (countPuck (s.onBrc fun b => { b with run := some { r with grounds := false } }),
     [.oruRunEnd (runEnd { r with grounds := false } .dropped), .brcUnitIdle]) := by
  obtain ⟨hunit, hrun⟩ := cup_of_cupRun h
  have harrived : brcArrived true s = endCupRun .dropped (setRun (fun r => { r with grounds := false }) s) := by
    simp only [brcArrived, hunit, hrun, hstate]
  rw [harrived, endCupRun_dropped (r := { r with grounds := false }) (by rw [cupRun_setRun, h]; rfl), setRun_of_run _ hrun]

theorem recordAbort_eq (reason : Reason) : recordAbort reason s =
    s.onBrc fun b => { b with run := some { r with abort := some (r.abort.getD reason) } } :=
  setRun_of_run _ (cup_of_cupRun h).2

theorem extractionEnd_eq : extractionEnd s =
    (let u := s.onBrc fun b => { b with run := some { r with pending := some .short } }
     let e := if armedRun s.cnu.flow then endRun .flow .disarm u else (u, [])
     (e.1, e.2 ++ [.brcEnter .drain])) := by
  simp only [extractionEnd, setRun_of_run _ (cup_of_cupRun h).2]
  rfl

/-- In B_SOAK and in B_HEAT_WAIT the run wants heat alike (R119). -/
theorem calm_runState_heatWait (hstate : r.state = .soak) (d : Option Nat) : (runState .heatWait d s).calm = s.calm := by
  obtain ⟨hunit, hrun⟩ := cup_of_cupRun h
  have hwants : (runState .heatWait d s).runWantsHeat = s.runWantsHeat := by
    rw [runState_eq h]
    simp only [State.runWantsHeat, State.onBrc, hrun, hstate]
  have hwish : (runState .heatWait d s).heatWishNow = s.heatWishNow := by
    show (if _ then _ else if _ then _ else if _ then _ else if (runState .heatWait d s).runWantsHeat then _ else if _ then _ else _) = _
    rw [hwants]
    rfl
  simp only [State.calm, hwish]
  rfl

end Run

/-- An aborted run ends with its cause, wherever its puck is (R116). -/
theorem runEnd_of_abort {r : CupRun} {a : Reason} (h : r.abort = some a) (puck : Puck) : runEnd r puck =
    { order := r.order, outcome := if a = .cancelled then .cancelled else .failed a, grind := r.grind.map fun g => (g.count, g.mode),
      extraction := r.extraction, puck := puck } := by
  simp only [runEnd, runOutcome, h]
  cases a <;> rfl

theorem disarm_of_armed {c : CounterId} (h : armedRun (s.counter c) = true) : disarm c s = endRun c .disarm s := if_pos h

theorem disarm_of_free {c : CounterId} (h : armedRun (s.counter c) = false) : disarm c s = (s, []) := if_neg (ne_true_of_eq_false h)

theorem cupRunEndsTheOrder (s : State) (o : Order) (report : RunEnd) (hrunning : s.runningOrder = some o) :
    (o.number ≠ report.order → oruRunEnd report s = (s, []))
    ∧ (o.number = report.order → oruRunEnd report s = closeOrder o report.outcome s) := by
  rw [oruRunEnd_of_running hrunning]
  exact ⟨fun hother => if_neg hother, fun hsame => if_pos hsame⟩

/-- Settles O38: the end of the run at the order unit by `closeOrder_eq`, and each state of the run by its row of `brcEnter_of_run`. -/
theorem cupRunDeadlinesAct : Obligations.CupRunDeadlinesAct := by
  refine ⟨?_, ?_⟩
  · intro s o report hrunning outcome left badge mode settled
    obtain ⟨hother, hsame⟩ := cupRunEndsTheOrder s o report hrunning
    refine ⟨hother, fun hnumber hstate => (hsame hnumber).trans ?_⟩
    rw [closeOrder_eq, if_pos hstate, pyuClose_eq]
    simp only [beq_iff_eq] <;> rfl
  · intro s r hrun hs moved recipe ends counts enters reports cause
    obtain ⟨hunit, hr⟩ := cup_of_cupRun hrun
    have hmoved (st : RunState) (d : Option Nat) : runState st d s = moved st d := runState_eq hrun st d
    have henter (st : RunState) := brcEnter_of_run hrun st
    simp only [hmoved] at henter
    have hsettles {e e' : Eff} (h : e = e') : (Host.Outcome.next (react e) : Out) = .next (react e') :=
      congrArg (fun e => Host.Outcome.next (react e)) h
    have hends {a : Reason} (ha : r.abort = some a) (puck : Puck) : [Act.oruRunEnd (runEnd r puck), .brcUnitIdle] = reports (cause a) puck := by
      rw [runEnd_of_abort ha]
    refine ⟨henter .home, henter .grind, henter .close, fun hzero => (henter .prewet).trans (if_pos hzero),
      fun hpos => (henter .prewet).trans (if_neg (Nat.ne_of_gt hpos)), fun hzero => (henter .soak).trans (if_pos hzero),
      fun hpos => (henter .soak).trans (if_neg (Nat.ne_of_gt hpos)), fun hready => (henter .heatWait).trans (if_pos hready),
      fun hcold => (henter .heatWait).trans (if_neg hcold), henter .extract, henter .drain, henter .eject, fun a ha => ⟨?_, ?_, ?_⟩,
      fun hstate => ?_, fun hdue harmed => ?_, fun hdue hfree => ?_, fun hdue hready => ?_, fun hdue hcold => ?_, fun hdue => ?_,
      fun hdue => ?_, fun hdue => ?_, fun hdue hnone => ?_, fun hdue a ha => ?_⟩
    · exact fun hgrounds => (brcProceed_of_empty hrun hgrounds).trans ((endCupRun_none hrun).trans (congrArg _ (hends ha .none)))
    · exact brcProceed_of_clean_out hrun
    · exact fun hgrounds hbar => (brcProceed_of_retained hrun hgrounds hbar).trans
        ((endCupRun_retained hrun).trans (congrArg _ (hends ha .retained)))
    · refine (brcArrived_of_eject hrun hstate).trans (congrArg _ ?_)
      cases ha : r.abort with
      | none => simp only [runEnd, runOutcome]; rfl
      | some a =>
        rw [runEnd_of_abort (r := { r with grounds := false, abort := some a }) (a := a) rfl]
    · exact (next_onDue hdue prewetLimit).trans (hsettles (disarm_of_armed harmed))
    · exact next_onDue_calm hdue hs (disarm_of_free hfree) rfl
    · exact (next_onDue hdue (brcEnter .heatWait)).trans (hsettles ((henter .heatWait).trans (if_pos hready)))
    · refine next_onDue_calm hdue hs ((henter .heatWait).trans (if_neg hcold)) ?_
      rw [← hmoved]
      exact calm_runState_heatWait hrun (state_of_dueRun hrun hdue) _
    · exact (next_onDue hdue (brcAbort .heatTimeout)).trans (hsettles (congrArg (·, _) (recordAbort_eq hrun .heatTimeout)))
    · exact (next_onDue hdue extractionEnd).trans (hsettles (extractionEnd_eq hrun))
    · exact (next_onDue hdue (brcEnter .eject)).trans (hsettles (henter .eject))
    · refine (next_onDue hdue (endCupRun .retained)).trans (hsettles ((endCupRun_retained hrun).trans (congrArg _ ?_)))
      simp only [runEnd, runOutcome, hnone]
      rfl
    · exact (next_onDue hdue (endCupRun .retained)).trans
        (hsettles ((endCupRun_retained hrun).trans (congrArg _ (hends ha .retained))))

end Sys2Proof.Proofs
end

section
/-! ## The drawer, the boiler switches, the safety lines (R58, R59, R112, R114, R116 to R118, R120) -/

namespace Sys2Proof.Proofs

open Sys2Proof Sys2Proof.Machine

variable {s t : State}

/-! ### The drawer -/

/-- The drawer as it is now, its pucks counted again where it has come back (R116). -/
def drawerTaken (inPlace : Bool) (s : State) : State :=
  (s.onPins fun p => { p with drawerIn := inPlace }).onBrc fun b =>
    { b with
      drawerIn := inPlace
      pucks := if inPlace = true ∧ b.drawerIn = false then flagCode b.retained else b.pucks
      drawerLimit := if inPlace = true ∧ b.drawerIn = false then s.conf.drawerLimit else b.drawerLimit }

theorem drawerChange_of_working {inPlace : Bool} (hw : s.working = true) : drawerChange inPlace s =
    (match s.brc.unit with
     | .cup => (drawerTaken inPlace s, [.brcEject])
     | .recovery =>
       if inPlace then (drawerTaken inPlace s, []) else (moveOver (drawerTaken inPlace s), [.brcUnitIdle])
     | .idle | .step => (drawerTaken inPlace s, [])) := by
  have htaken : ((s.onPins fun p => { p with drawerIn := inPlace }).onBrc fun b =>
      if inPlace && !b.drawerIn then
        { b with drawerIn := true, pucks := if b.retained then 1 else 0, drawerLimit := s.conf.drawerLimit }
      else { b with drawerIn := inPlace }) = drawerTaken inPlace s := by
    unfold drawerTaken
    refine congrArg (State.onBrc · _) (funext fun b => ?_)
    cases inPlace <;> cases hb : b.drawerIn <;> simp [flagCode]
  simp only [drawerChange, hw, Bool.not_true, Bool.false_eq_true, if_false, htaken] <;> rfl

/-- Settles O39: the change by what holds the unit; the recovery start is `recoveryStart`. -/
theorem drawerChangesAreTaken : Obligations.DrawerChangesAreTaken := by
  intro s inPlace hw hs u
  have hchange := drawerChange_of_working (inPlace := inPlace) hw
  have hsettles {e : Eff} (h : drawerChange inPlace s = e) : exec (.drawerInChange inPlace) s = .next (react e) :=
    congrArg (fun e => Host.Outcome.next (react e)) h
  have hcalm (h : drawerChange inPlace s = (u, [])) : exec (.drawerInChange inPlace) s = .next u := next_react_calm hs h rfl
  refine ⟨fun hunit => hsettles ?_, fun hunit hout => hsettles ?_, fun hunit => hcalm ?_, fun hdue => next_onDue hdue recoveryStart⟩
  · rw [hchange, hunit]
    rfl
  · subst hout
    rw [hchange, hunit]
    rfl
  · rcases hunit with hunit | hunit | ⟨hunit, rfl⟩ <;> rw [hchange, hunit] <;> rfl

/-! ### The boiler switches -/

/-- One report that leaves a settled state leaves exactly its writes. -/
theorem react_report_settled {a : Act} {u v : State} (hstop : ∀ c, a ≠ .stopEvent c) (hperform : perform a u = (v, []))
    (hs : v.Settled) : react (u, [a]) = v := react_report_calm hs hstop hperform rfl

theorem brcRegulator_of_same (h : s.regulatorNow = s.brc.regulator) : brcRegulator s = (s, []) := if_pos h

theorem brcRegulator_of_changed (h : s.regulatorNow ≠ s.brc.regulator) (hwork : s.regulatorNow ≠ .ready ∨
    ((s.cupRun.any fun c => c.state == .heatWait && c.abort.isNone) = false ∧ s.unitStep ≠ some .heatWait)) :
    brcRegulator s = (reportRegulator (s.onBrc fun b => { b with regulator := s.regulatorNow }), []) := by
  refine (if_neg h).trans ?_
  rcases hwork with hcold | ⟨hrun, hstep⟩
  · exact if_pos hcold
  · by_cases hcold : s.regulatorNow ≠ .ready
    · exact if_pos hcold
    · exact (if_neg hcold).trans ((if_neg (ne_true_of_eq_false hrun)).trans (if_neg hstep))

/-- A regulator state that has been reported leaves a settled state but for it settled. -/
theorem settled_reportRegulator {r : Regulator} (hcups : s.oru.cupPending = s.cupPendingNow) (hheat : s.heatWishNow = s.brc.heatWish)
    (hslot : s.clc.state = .waitSlot → s.startConditions = true) (hneed : s.stu.unmetSince.isSome = s.unmet)
    (hstandby : s.brc.standbySince.isSome = s.standbyConditions) (hr : s.regulatorNow = r) :
    (reportRegulator (s.onBrc fun b => { b with regulator := r })).Settled :=
  ⟨hcups, hheat, hr, hslot, hneed, hstandby⟩

theorem boilerChange_of_working {cold : Bool} (hw : s.working = true) :
    boilerChange cold s = (s.onPins fun p => { p with boilCold := cold }, [.brcRegulator]) := if_pos hw

theorem regulatorNow_of_working (hw : s.working = true) : s.regulatorNow =
    if s.brc.overheat then .tripped
    else if s.brc.steppedDown || s.brc.heatWish == .off then .off
    else if s.pins.boilCold then .heating else .ready := by
  simp [State.regulatorNow, hw]

/-- The boiler switch changes in a settled state, and its report leaves nothing to bring up to date. -/
theorem exec_boilColdChange_of_report {cold : Bool} {v : State} (hw : s.working = true)
    (hperform : brcRegulator (s.onPins fun p => { p with boilCold := cold }) = (v, [])) (hs : v.Settled) :
    exec (.boilColdChange cold) s = .next v :=
  congrArg Host.Outcome.next ((congrArg react (boilerChange_of_working hw)).trans (react_report_settled (by simp) hperform hs))

theorem overheatChange_of_asserted (hw : s.working = true) (hline : s.pins.boilOvht = false) (hlatch : s.brc.overheat = false) :
    overheatChange true s = overheatLatch (s.onPins fun p => { p with boilOvht := true }) := by
  simp [overheatChange, hw, hline, hlatch]

theorem overheatChange_of_level {b : Bool} (h : b = false ∨ s.pins.boilOvht = true ∨ s.brc.overheat = true) :
    overheatChange b s = (s.onPins fun p => { p with boilOvht := b }, []) := by
  rcases h with h | h | h <;> simp [overheatChange, h]

theorem heatLoad_of_barred (h : s.heaterBarred = true) : heatLoad s = s.onDcu fun u => { u with heater := 0 } := by
  rw [heatLoad, heaterNow_barred h]

/-- With the overheat latch set a heat load event takes HEATER to 0 % (R58). -/
theorem overheatLatch_eq : overheatLatch s =
    ((s.onBrc fun b => { b with overheat := true, regulator := .tripped }).onDcu fun d => { d with regulator := .tripped, heater := 0 },
     [.stopEvent .overheat, .brcHeat, .post .fault none 9 0 0, .oruFaultSet]) :=
  congrArg (·, _) (heatLoad_of_barred (s := (s.onBrc fun b => { b with overheat := true, regulator := .tripped }).onDcu
    fun d => { d with regulator := .tripped }) (Bool.or_true s.pins.boilOvht))

/-- Settles O40: BOIL_COLD by the regulator state that it brings, BOIL_OVHT by the latch. -/
theorem boilerSwitchesDriveTheHeater : Obligations.BoilerSwitchesDriveTheHeater := by
  intro s hw hs
  refine ⟨?_, fun hline hlatch => ?_, fun hlevel => ?_, ?_, fun hdue => next_onDue hdue _⟩
  · intro cold p r u
    have hr : p.regulatorNow = r := regulatorNow_of_working hw
    have hsettled (regulator : p.regulatorNow = p.brc.regulator) : p.Settled :=
      ⟨hs.cups, hs.heat, regulator, hs.slot, hs.need, hs.standby⟩
    have hchanged (hne : r ≠ s.brc.regulator) (hwork : r ≠ .ready ∨
        ((s.cupRun.any fun c => c.state == .heatWait && c.abort.isNone) = false ∧ s.unitStep ≠ some .heatWait)) :
        exec (.boilColdChange cold) s = .next u := by
      refine exec_boilColdChange_of_report hw ((brcRegulator_of_changed (s := p) (by rwa [hr]) (by rw [hr]; exact hwork)).trans ?_)
        (settled_reportRegulator (s := p) hs.cups hs.heat hs.slot hs.need hs.standby hr)
      rw [hr]
      rfl
    exact ⟨fun hsame => exec_boilColdChange_of_report hw (brcRegulator_of_same (hr.trans hsame)) (hsettled (hr.trans hsame)),
      fun hne hcold => hchanged hne (.inl hcold), fun hne _ hrun hstep => hchanged hne (.inr ⟨hrun, hstep⟩),
      congrArg (fun e => Host.Outcome.next (react e)) (boilerChange_of_working hw), fun v => rfl⟩
  · exact congrArg (fun e => Host.Outcome.next (react e)) ((overheatChange_of_asserted hw hline hlatch).trans overheatLatch_eq)
  · exact next_react_calm hs (overheatChange_of_level (.inr hlevel)) rfl
  · exact next_react_calm hs (overheatChange_of_level (.inl rfl)) rfl

/-! ### The safety lines -/

theorem react_pins (e : Eff) : (react e).pins = e.1.pins := congrArg Quiet.pins (quiet_react e)

theorem lidChange_pins : (lidChange true s).1.pins.lidOpen = true := by
  have hquiet : (lidChange true s).1.quiet = (s.onPins fun p => { p with lidOpen := true }).quiet := by
    unfold lidChange grinderLineAsserted
    (repeat' split) <;> simp
  exact congrArg (fun q => q.pins.lidOpen) hquiet

theorem overloadChange_pins : (overloadChange true s).1.pins.grOvld = true := by
  have hquiet : (overloadChange true s).1.quiet = (s.onPins fun p => { p with grOvld := true }).quiet := by
    unfold overloadChange grinderLineAsserted
    (repeat' split) <;> simp
  exact congrArg (fun q => q.pins.grOvld) hquiet

theorem overheatChange_pins : (overheatChange true s).1.pins.boilOvht = true := by
  unfold overheatChange
  split <;> rfl

theorem grinderBarred_of_line (h : s.pins.lidOpen = true ∨ s.pins.grOvld = true) : s.grinderBarred = true := by
  rcases h with h | h <;> simp [State.grinderBarred, h]

theorem heaterBarred_of_line (h : s.pins.boilOvht = true) : s.heaterBarred = true := by
  simp [State.heaterBarred, h]

theorem grinder_off_of_barred (h : Interlocks s) (hbar : s.grinderBarred = true) : s.dcu.grinder = false := by
  refine Bool.eq_false_iff.mpr fun hon => ?_
  simp [(h.grinder hon).2] at hbar

/-- Settles O41: after any command the interlocks hold (O60), and the level asserted bars the channel. -/
theorem safetyLinesHoldTheirChannels : Obligations.SafetyLinesHoldTheirChannels := by
  intro s hlocks hinert
  have hkept (c : Instr) : Interlocks (taken c s) := (safe_taken c ⟨hlocks, hinert⟩).1
  have hlid : (taken (.lidOpenAssert true) s).pins.lidOpen = true := (congrArg Pins.lidOpen (react_pins _)).trans lidChange_pins
  have hovld : (taken (.grOvldAssert true) s).pins.grOvld = true := (congrArg Pins.grOvld (react_pins _)).trans overloadChange_pins
  have hovht : (taken (.boilOvhtAssert true) s).pins.boilOvht = true :=
    (congrArg Pins.boilOvht (react_pins _)).trans overheatChange_pins
  exact ⟨⟨_, rfl, hlid, grinder_off_of_barred (hkept (.lidOpenAssert true)) (grinderBarred_of_line (.inl hlid))⟩,
    ⟨_, rfl, hovld, grinder_off_of_barred (hkept (.grOvldAssert true)) (grinderBarred_of_line (.inr hovld))⟩,
    ⟨_, rfl, hovht, (hkept (.boilOvhtAssert true)).overheat (heaterBarred_of_line hovht)⟩⟩

end Sys2Proof.Proofs
end

section
/-! ## Orders (R103, R124, R125, R128 to R130, R134, R135) -/

namespace Sys2Proof.Proofs

open Sys2Proof Sys2Proof.Machine

variable {s t : State} {o : Order} {n : Nat}

/-! ### Tests taken in turn -/

/-- Tests taken one after another name what the first test of their list that fails names. -/
theorem firstFailed_cons {α β : Type} {p : Prop} [Decidable p] {c : Bool} (f : α → β) (a : α) (b : β) {x : Option α}
    {rest : List (Bool × β)} (hc : p ↔ c = true) (hb : f a = b) (hrest : x.map f = (rest.find? (·.1)).map (·.2)) :
    (if p then some a else x).map f = (((c, b) :: rest).find? (·.1)).map (·.2) := by
  by_cases hp : p
  · rw [if_pos hp, List.find?_cons_of_pos (hc.mp hp), ← hb]
    rfl
  · rw [if_neg hp, List.find?_cons_of_neg (fun h => hp (hc.mpr h)), hrest]

/-- The tests of a CUP request, each with whether its refusal sets the waiting mark (R103). -/
def cupTests (s : State) : List (Bool × Bool) :=
  [(decide (s.plk.mode ≠ .serving), false), (s.grc.fault || s.brc.stuck || s.brc.overheat, false),
   (s.clc.rinseRequired, true), (s.brc.retained, true), (decide (s.brc.unit ≠ .idle), true), (!s.dcu.basePerm, true)]

theorem cupTest_waits (s : State) : s.cupTest.map waits = ((cupTests s).find? (·.1)).map (·.2) := by
  refine firstFailed_cons waits _ _ (by simp) rfl ?_
  refine firstFailed_cons waits _ _ Iff.rfl rfl ?_
  refine firstFailed_cons waits _ _ Iff.rfl rfl ?_
  refine firstFailed_cons waits _ _ Iff.rfl rfl ?_
  refine firstFailed_cons waits _ _ (by simp) rfl ?_
  exact firstFailed_cons waits _ _ Iff.rfl rfl rfl

/-! ### The start of a cup -/

theorem oruStart_of_running (h : ∃ o ∈ s.oru.queue, o.state = .running) : oruStart s = (s, []) := by
  have hrunning : s.hasRunning = true := by simpa [State.hasRunning] using h
  simp [oruStart, hrunning]

theorem oruStart_of_none (h : s.oldestReady = none) : oruStart s = (s, []) := by
  simp [oruStart, h]

section Start

variable (hidle : ∀ x ∈ s.oru.queue, x.state ≠ .running) (hready : s.oldestReady = some o)

include hidle hready

theorem oruStart_of_ready : oruStart s = (match s.cupTest with
    | none => grantCup o (setOrder o.number (fun o => { o with state := .running }) s)
    | some r => (if waits r then s.onBrc fun b => { b with cupWaiting := true } else s, [])) := by
  have hrunning : s.hasRunning = false := by simpa [State.hasRunning] using hidle
  simp only [oruStart, hrunning, hready] <;> rfl

theorem oruStart_refused {test : Bool × Bool} (h : (cupTests s).find? (·.1) = some test) :
    oruStart s = (if test.2 then s.onBrc fun b => { b with cupWaiting := true } else s, []) := by
  have htest := cupTest_waits s
  rw [h] at htest
  obtain ⟨r, hr, hwaits⟩ := Option.map_eq_some_iff.mp htest
  rw [oruStart_of_ready hidle hready, hr]
  exact congrArg (fun w : Bool => (if w then s.onBrc fun b => { b with cupWaiting := true } else s, [])) hwaits

theorem oruStart_granted (h : (cupTests s).find? (·.1) = none) :
    oruStart s = grantCup o (setOrder o.number (fun o => { o with state := .running }) s) := by
  have htest := cupTest_waits s
  rw [h] at htest
  rw [oruStart_of_ready hidle hready, Option.map_eq_none_iff.mp htest]

end Start

/-! ### Admission -/

/-- The tests of an ORDER request, each with its refusal (R124). -/
def orderTests (s : State) (recipe size strength : Nat) (free : Prop) [Decidable free] : List (Bool × Result) :=
  [(decide (s.plk.mode = .start ∨ s.stu.lineState = .joining), .notReady),
   (decide (s.plk.mode = .service), .serviceMode),
   (s.grc.fault || s.brc.stuck || s.brc.overheat, .outOfService),
   (s.clc.rinseRequired && !s.inStretch, .rinseRequired),
   (s.inStretch, .cleaning),
   (decide (7 < recipe ∨ ((s.recipe recipe).priceS = none ∧ (s.recipe recipe).priceM = none ∧ (s.recipe recipe).priceL = none)),
    .badRecipe),
   (decide (recipePrice (s.recipe recipe) size = none), .badSize),
   (decide (strength < 1 ∨ 5 < strength), .badStrength),
   (decide (free ∧ s.conf.freeVend = false), .freeNotAllowed),
   (decide (4 ≤ s.oru.queue.length), .queueFull),
   (decide (s.brc.drawerLimit ≤ s.brc.pucks + s.oru.queue.length), .drawerFull),
   (decide (¬ free ∧ 64 < s.plg.log.length + s.plg.reserve + 3), .logFull)]

theorem hasPrice_eq_false_iff (r : Recipe) : hasPrice r = false ↔ r.priceS = none ∧ r.priceM = none ∧ r.priceL = none := by
  simp [hasPrice, and_assoc]

theorem orderTest_eq_find (s : State) (recipe size strength : Nat) (free : Prop) [Decidable free] :
    s.orderTest recipe size strength (decide free) = ((orderTests s recipe size strength free).find? (·.1)).map (·.2) := by
  refine (congrFun Option.map_id _).symm.trans ?_
  refine firstFailed_cons id _ _ (by simp) rfl ?_
  refine firstFailed_cons id _ _ (by simp) rfl ?_
  refine firstFailed_cons id _ _ Iff.rfl rfl ?_
  refine firstFailed_cons id _ _ Iff.rfl rfl ?_
  refine firstFailed_cons id _ _ Iff.rfl rfl ?_
  refine firstFailed_cons id _ _ (by simp [hasPrice_eq_false_iff]) rfl ?_
  refine firstFailed_cons id _ _ (by simp) rfl ?_
  refine firstFailed_cons id _ _ (by simp) rfl ?_
  refine firstFailed_cons id _ _ (by simp) rfl ?_
  refine firstFailed_cons id _ _ (by simp) rfl ?_
  refine firstFailed_cons id _ _ (by simp) rfl ?_
  exact firstFailed_cons id _ _ (by
    simp only [State.logRoom, Bool.and_eq_true, Bool.not_eq_true', decide_eq_false_iff_not, decide_eq_true_eq, Nat.not_le]) rfl rfl

theorem answerOrder_of_mode {recipe size strength payMode : Nat} (h : payMode = 1 ∨ payMode = 2) :
    answerOrder recipe size strength payMode s = (match s.orderTest recipe size strength (payMode == 2) with
      | some r => refuse r s
      | none => answerOk (react (admitOrder (s.newOrder recipe size strength (payMode == 2)) s))
          (field1 (s.newOrder recipe size strength (payMode == 2)).number
            ++ field1 (orderStateCode (s.newOrder recipe size strength (payMode == 2)).state)
            ++ field2 (s.newOrder recipe size strength (payMode == 2)).price)) :=
  (if_neg (by omega)).trans rfl

/-- An admitted order ends the conditions of the standby timer (R120, R125). -/
theorem admitOrder_eq (o : Order) (s : State) : admitOrder o s =
    ((s.onOru fun q => { q with queue := q.queue ++ [o], nextNumber := numberAfter o.number }).onBrc fun b =>
      { b with standby := false, standbySince := none },
     [Act.stuStepDownEnd] ++ (if s.brc.standby then [.brcHeat] else []) ++ [.oruCupPending]
      ++ (if o.state = .ready then [.oruStart] else [])) := by
  have hceased : (s.onOru fun q => { q with queue := q.queue ++ [o], nextNumber := numberAfter o.number }).standbyConditions = false := by
    simp [State.standbyConditions, State.onOru]
  simp only [admitOrder, clearStandby_of_ceased hceased]
  rfl

theorem newOrder_admitted {recipe size strength : Nat} {free : Prop} [Decidable free] : admitOrder (s.newOrder recipe size strength (decide free)) s =
    ((s.onOru fun q => { q with
        queue := q.queue ++ [s.newOrder recipe size strength (decide free)]
        nextNumber := numberAfter (s.newOrder recipe size strength (decide free)).number }).onBrc fun b =>
      { b with standby := false, standbySince := none },
     [Act.stuStepDownEnd] ++ (if s.brc.standby then [.brcHeat] else []) ++ [.oruCupPending] ++ (if free then [.oruStart] else [])) := by
  rw [admitOrder_eq]
  by_cases h : free <;> simp [State.newOrder, h]

/-- Settles O42: the start and the admission, each by the first of its tests that fails. -/
theorem ordersAreTestedAndAdmitted : Obligations.OrdersAreTestedAndAdmitted := by
  refine ⟨?_, ?_⟩
  · intro s marks tests
    exact ⟨oruStart_of_running, oruStart_of_none, fun o hidle hready =>
      ⟨fun test h => oruStart_refused hidle hready h, fun h => oruStart_granted hidle hready h⟩⟩
  · intro s recipe size strength payMode hline hmode answers table price free tests o u reports
    have hanswer {a : Answer} (h : answerOrder recipe.toNat size.toNat strength.toNat payMode.toNat s = a) :
        exec (.order recipe size strength payMode) s = .next (placeReply 6#8 7 a) := by
      rw [exec_order_of_admitted hline hmode, h]
    refine ⟨fun h1 h2 => hanswer (if_pos ?_), fun hpay => ?_⟩
    · exact ⟨fun h => h1 (BitVec.eq_of_toNat_eq h), fun h => h2 (BitVec.eq_of_toNat_eq h)⟩
    · have hfree : (payMode.toNat == 2) = decide free := by
        rcases hpay with rfl | rfl <;> rfl
      have hpay' : payMode.toNat = 1 ∨ payMode.toNat = 2 := hpay.imp (congrArg BitVec.toNat) (congrArg BitVec.toNat)
      have hfind : s.orderTest recipe.toNat size.toNat strength.toNat (decide free) = (tests.find? (·.1)).map (·.2) :=
        orderTest_eq_find s recipe.toNat size.toNat strength.toNat free
      have hmodes := answerOrder_of_mode (s := s) (recipe := recipe.toNat) (size := size.toNat) (strength := strength.toNat) hpay'
      rw [hfree, hfind] at hmodes
      refine ⟨fun test htest => hanswer ?_, fun htest => hanswer ?_⟩
      · rw [hmodes, htest]
        rfl
      · have ho : s.newOrder recipe.toNat size.toNat strength.toNat (decide free) = o := by
          rcases hpay with rfl | rfl <;> rfl
        have hadmit := newOrder_admitted (s := s) (recipe := recipe.toNat) (size := size.toNat) (strength := strength.toNat) (free := free)
        rw [ho] at hadmit
        rw [hmodes, htest, ho, Option.map_none, hadmit]
        rcases hpay with rfl | rfl <;> rfl

end Sys2Proof.Proofs
end

section
/-! ## Cancels and tap windows (R128, R134, R135) -/

namespace Sys2Proof.Proofs

open Sys2Proof Sys2Proof.Machine

variable {s t : State} {o : Order} {n : Nat}

/-! ### Closing without a cup -/

/-- An order that is no cup made leaves the queue, a refund due where it was debited (R134, R160). -/
def closedUnmade (o : Order) (s : State) : State :=
  if o.debitSeq.isSome then reserveDown 1 (appendRefundDue (o.badge.getD 0#32) o.price o.number (withoutOrder o s))
  else withoutOrder o s

theorem closeOrder_unmade {outcome : OrderOutcome} (hmade : outcome = .cancelled ∨ outcome = .expired) (hstate : o.state ≠ .running) :
    closeOrder o outcome s =
      (closedUnmade o s, [.post .orderClosed (some o.number) (outcomeCode outcome) 0 0, .oruCupPending]) := by
  have hclose : pyuClose o false (withoutOrder o s) = closedUnmade o s := by
    rw [pyuClose_eq, closedUnmade]
    cases o.debitSeq <;> rfl
  rw [closeOrder_eq, if_neg hstate]
  rcases hmade with rfl | rfl <;> exact congrArg (·, _) hclose

theorem number_of_orderOf (h : s.orderOf n = some o) : o.number = n := by
  simpa using List.find?_some h

/-! ### Cancel -/

theorem exec_cancel {number : Byte} (hline : s.pins.resetAsserted = false) (hmode : s.plk.mode ≠ .halted) {e : Eff} {r : Result}
    (h : cancelOrder number.toNat s = (e, r)) : exec (.cancel number) s =
      .next (placeReply 7#8 4 { state := if r = .noSuchOrder then s else react e, result := r, body := [], notices := 0 }) := by
  refine congrArg Host.Outcome.next ((request_of_admitted 7 1 _ hline hmode).trans (congrArg (placeReply 7#8 4) ?_))
  simp only [answerCancel, h]

theorem cancelOrder_of_none (h : s.orderOf n = none) : cancelOrder n s = ((s, []), .noSuchOrder) := by
  simp only [cancelOrder, h]

theorem cancelOrder_of_waiting (h : s.orderOf n = some o) (hstate : o.state ≠ .running) :
    cancelOrder n s = (closeOrder o .cancelled s, .ok) := by
  simp only [cancelOrder, h, hstate, if_false]

theorem cancelOrder_of_running (h : s.orderOf n = some o) (hstate : o.state = .running) :
    cancelOrder n s = (cancelRun n s, cancelResult (s.cancelRunAnswer n)) := by
  simp only [cancelOrder, h, hstate, if_true]

theorem cancelRun_of_refused (h : s.cancelRunAnswer n ≠ .ok) : cancelRun n s = (s, []) := if_pos h

theorem cancelRunAnswer_of_other (h : ∀ r, s.cupRun = some r → r.order ≠ n) : s.cancelRunAnswer n = .noRun := by
  unfold State.cancelRunAnswer
  cases hrun : s.cupRun with
  | none => rfl
  | some r => exact if_pos (h r hrun)

section Run

variable {r : CupRun} (h : s.cupRun = some r) (horder : r.order = n)

include h horder

theorem cancelRunAnswer_of_run : s.cancelRunAnswer n =
    if r.abort.isSome then .ending
    else match r.state with
      | .home | .grind | .close | .prewet | .soak | .heatWait => .ok
      | .extract | .drain | .eject => .tooLate := by
  simp only [State.cancelRunAnswer, h, horder, ne_eq, not_true_eq_false, if_false] <;> rfl

theorem cancelRunAnswer_of_late (hfree : r.abort = none) (hstate : r.state = .extract ∨ r.state = .drain ∨ r.state = .eject) :
    s.cancelRunAnswer n = .tooLate := by
  rw [cancelRunAnswer_of_run h horder, hfree]
  rcases hstate with hstate | hstate | hstate <;> rw [hstate] <;> rfl

theorem cancelRunAnswer_of_early (hfree : r.abort = none)
    (hstate : r.state = .grind ∨ r.state = .home ∨ r.state = .close ∨ r.state = .prewet ∨ r.state = .soak ∨ r.state = .heatWait) :
    s.cancelRunAnswer n = .ok := by
  rw [cancelRunAnswer_of_run h horder, hfree]
  rcases hstate with hstate | hstate | hstate | hstate | hstate | hstate <;> rw [hstate] <;> rfl

end Run

theorem cancelRun_of_brewing {r : CupRun} (h : s.cupRun = some r) (hanswer : s.cancelRunAnswer n = .ok) (hstate : r.state ≠ .grind) :
    cancelRun n s = brcAbort .cancelled s := by
  simp [cancelRun, hanswer, h, hstate]

theorem cancelRun_of_grinding {r : CupRun} (h : s.cupRun = some r) (hanswer : s.cancelRunAnswer n = .ok) (hstate : r.state = .grind) :
    cancelRun n s =
      ((cancelGrind n (recordAbort .cancelled s)).1, .brcHeat :: (cancelGrind n (recordAbort .cancelled s)).2) := by
  simp [cancelRun, hanswer, h, hstate]

/-! ### The tap window -/

/-- An order whose tap window has passed (R128). -/
def tapPassed (o : Order) : Order := { o with tapDeadline := none, windowExpired := o.paying }

/-- What a change of the orders of one number does to an order. -/
def atNumber (n : Nat) (f : Order → Order) (o : Order) : Order := if o.number = n then f o else o

theorem setOrder_eq (f : Order → Order) : setOrder n f s = s.onOru fun u => { u with queue := u.queue.map (atNumber n f) } := rfl

section AtNumber

variable {f : Order → Order} (hf : ∀ o, (f o).number = o.number)

include hf

theorem atNumber_number (o : Order) : (atNumber n f o).number = o.number := by
  unfold atNumber
  split
  · exact hf o
  · rfl

theorem orderOf_setOrder (h : s.orderOf n = some o) : (setOrder n f s).orderOf n = some (f o) := by
  have hsame : (fun o : Order => o.number == n) ∘ atNumber n f = fun o => o.number == n :=
    funext fun o => congrArg (· == n) (atNumber_number hf o)
  have hfound : (setOrder n f s).orderOf n = (s.orderOf n).map (atNumber n f) := by
    show List.find? _ (s.oru.queue.map (atNumber n f)) = _
    rw [List.find?_map, hsame]
    rfl
  rw [hfound, h, Option.map_some, atNumber, if_pos (number_of_orderOf h)]

/-- An order that leaves the queue leaves nothing of what was changed in it. -/
theorem withoutOrder_setOrder (ho : o.number = n) : withoutOrder o (setOrder n f s) = withoutOrder o s := by
  refine congrArg (fun q => s.onOru fun u => { u with queue := q }) ?_
  show (s.oru.queue.map (atNumber n f)).filter _ = s.oru.queue.filter _
  have hsame : (fun q : Order => q.number != o.number) ∘ atNumber n f = fun q => q.number != o.number :=
    funext fun q => congrArg (· != o.number) (atNumber_number hf q)
  rw [List.filter_map, hsame]
  refine (List.map_congr_left fun q hq => ?_).trans (List.map_id _)
  have hother : q.number ≠ n := by simpa [ho] using (List.mem_filter.mp hq).2
  exact if_neg hother

end AtNumber

theorem tapExpiry_of_order (h : s.orderOf n = some o) : tapExpiry n s =
    if o.paying then (setOrder n tapPassed s, []) else closeOrder (tapPassed o) .expired (setOrder n tapPassed s) := by
  have hfound : (setOrder n tapPassed s).orderOf n = some (tapPassed o) := orderOf_setOrder (fun _ => rfl) h
  show (match (setOrder n tapPassed s).orderOf n with
    | some o => if o.paying then (setOrder n tapPassed s, []) else closeOrder o .expired (setOrder n tapPassed s)
    | none => (setOrder n tapPassed s, [])) = _
  rw [hfound]
  rfl

/-- A change that leaves the states of the orders is not seen by the closing reports. -/
theorem calm_setOrder {f : Order → Order} (hf : ∀ o, (f o).state = o.state) : (setOrder n f s).calm = s.calm := by
  have hstate (o : Order) : (atNumber n f o).state = o.state := by
    unfold atNumber
    split
    · exact hf o
    · rfl
  have hpending : (setOrder n f s).cupPendingNow = s.cupPendingNow := by
    show (s.oru.queue.map (atNumber n f)).any _ = _
    rw [List.any_map]
    exact congrArg (s.oru.queue.any ·) (funext fun o => by simp only [Function.comp_apply, hstate])
  have hempty : (setOrder n f s).standbyConditions = s.standbyConditions := by
    show (_ && (s.oru.queue.map (atNumber n f)).isEmpty && _ && _ && _) = _
    rw [List.isEmpty_map]
    rfl
  simp only [State.calm, hpending, hempty]
  rfl

theorem closedUnmade_tapPassed (ho : o.number = n) : closedUnmade (tapPassed o) (setOrder n tapPassed s) = closedUnmade o s := by
  have hleft : withoutOrder (tapPassed o) (setOrder n tapPassed s) = withoutOrder o s := withoutOrder_setOrder (fun _ => rfl) ho
  rw [closedUnmade, hleft]
  rfl

/-- Settles O44: the cancel by the record named and by the run that it holds; the tap window by whether a tap is paying. -/
theorem cancelAndExpiryCloseOrders : Obligations.CancelAndExpiryCloseOrders := by
  intro s o left closed closes
  have hcloses {outcome : OrderOutcome} (hmade : outcome = .cancelled ∨ outcome = .expired) (hstate : o.state ≠ .running) :
      react (closeOrder o outcome s) = closes (outcomeCode outcome) := congrArg react (closeOrder_unmade hmade hstate)
  refine ⟨fun number hline hmode => ?_, fun n hdue horder hstate => ⟨fun hpaying hs => ?_, fun hfree => ?_⟩⟩
  · intro answers
    have hanswer {e : Eff} {r : Result} {t : State} (h : cancelOrder number.toNat s = (e, r)) (hr : r ≠ .noSuchOrder)
        (ht : react e = t) : answers r t := by
      refine (exec_cancel hline hmode h).trans ?_
      rw [if_neg hr, ht]
    refine ⟨fun hnone => exec_cancel hline hmode (cancelOrder_of_none hnone), fun horder hstate => ?_, fun horder hstate hs => ?_⟩
    · exact hanswer (cancelOrder_of_waiting horder hstate) (by decide) (hcloses (.inl rfl) hstate)
    · have hcancel := cancelOrder_of_running horder hstate
      have hrefused {a : CancelAnswer} (h : s.cancelRunAnswer number.toNat = a) (ha : a ≠ .ok)
          (hr : cancelResult a ≠ .noSuchOrder) : answers (cancelResult a) s := by
        refine hanswer (e := (s, [])) (hcancel.trans ?_) hr (react_settled hs)
        rw [cancelRun_of_refused (by rwa [h]), h]
      have haccepted {e : Eff} (h : s.cancelRunAnswer number.toNat = .ok) (he : cancelRun number.toNat s = e) :
          answers .accepted (react e) := by
        refine hanswer (hcancel.trans ?_) (by decide) rfl
        rw [h, he]
        rfl
      refine ⟨fun r hrun hr => ⟨fun a ha => hrefused (a := .ending) ?_ (by decide) (by decide),
        fun hfree => ⟨fun hlate => hrefused (cancelRunAnswer_of_late hrun hr hfree hlate) (by decide) (by decide), ?_⟩⟩,
        fun hother => hrefused (cancelRunAnswer_of_other hother) (by decide) (by decide)⟩
      · rw [cancelRunAnswer_of_run hrun hr, ha]
        rfl
      · intro u
        have hu : recordAbort .cancelled s = u := by
          rw [recordAbort_eq hrun, hfree]
          rfl
        refine ⟨fun hbrewing => ?_, fun hgrinding => ?_⟩
        · have hok := cancelRunAnswer_of_early hrun hr hfree (.inr hbrewing)
          have hgrind : r.state ≠ .grind := by
            rintro hstate
            simp [hstate] at hbrewing
          exact haccepted hok ((cancelRun_of_brewing hrun hok hgrind).trans (congrArg (·, _) hu))
        · have hok := cancelRunAnswer_of_early hrun hr hfree (.inl hgrinding)
          refine haccepted hok ((cancelRun_of_grinding hrun hok hgrinding).trans ?_)
          rw [hu]
  · exact next_onDue_calm hdue hs ((tapExpiry_of_order horder).trans (if_pos hpaying)) (calm_setOrder fun _ => rfl)
  · refine (next_onDue hdue (tapExpiry n)).trans (congrArg (fun e => Host.Outcome.next (react e)) ?_)
    rw [tapExpiry_of_order horder, if_neg (ne_true_of_eq_false hfree),
      closeOrder_unmade (.inr rfl) (by rw [show (tapPassed o).state = o.state from rfl, hstate]; decide),
      closedUnmade_tapPassed (number_of_orderOf horder)]
    rfl

end Sys2Proof.Proofs
end

section
/-! ## Taps, and the records of the reader (R140, R141, R144 to R146, R155, R157) -/

namespace Sys2Proof.Proofs

open Sys2Proof Sys2Proof.Machine

variable {s t : State} {p : Payment}

/-! ### Offers and orders of a payment -/

/-- A HOLD TAKE is queued, or refused where the queue is full (R12 to R14, R22). -/
theorem offerFrame_holdTake (hw : s.working = true) (badge : Badge) (tag : Nat) : offerFrame (.holdTake badge tag) s =
    if s.queueFull then s else s.onLau fun l => { l with queue := l.queue ++ [newSlot (.holdTake badge tag)] } := by
  simp [offerFrame, hw, coalesces]

@[simp] theorem calm_sendSignal (b : Bool) (s : State) : (sendSignal b s).calm = s.calm := by
  unfold sendSignal
  split
  · rfl
  · exact calm_onPyu _ _

@[simp] theorem calm_denyTap (order : Option Nat) (code : Nat) (s : State) : (denyTap order code s).calm = s.calm := by
  simp only [denyTap]
  split <;> simp

theorem denyTap_of_code {order : Option Nat} {code : Nat} (h : code ≠ 0) :
    denyTap order code s = postNotice .payDenied order code 0 0 (sendSignal false s) := if_neg h

@[simp] theorem calm_oruPaying (n : Nat) (s : State) : (oruPaying n s).calm = s.calm := by
  refine calm_setOrder fun o => ?_
  split <;> rfl

@[simp] theorem calm_startPayment (p : Payment) (s : State) : (startPayment p s).calm = s.calm := by
  unfold startPayment
  split
  · exact calm_denyTap _ _ _
  · have hlau : (reserveUp 3 (useRefund p.badge p.refundUsed.isSome ((offerFrame (.holdTake p.badge p.tag) s).onPyu fun u =>
        { u with tag := p.tag, payment := some p, lastNewSeq := 0 }))).calm = s.calm := calm_offerFrame s _
    cases p.order with
    | none => exact hlau
    | some q => exact (calm_oruPaying _ _).trans hlau

@[simp] theorem calm_tap (badge : Badge) (balance cardSeq : Nat) (s : State) : (tap badge balance cardSeq s).calm = s.calm := by
  dsimp only [tap]
  (repeat' split) <;> simp only [calm_denyTap, calm_startPayment]

/-! ### Starting a payment -/

theorem startPayment_of_full (h : s.queueFull = true) :
    startPayment p s = postNotice .payDenied (payOrder p) 5 0 0 (sendSignal false s) := if_pos h

/-- A payment that starts: the TAKE in the queue, the refund in use, the reserve, and the paying mark of its order (R145). -/
theorem startPayment_of_room (hw : s.working = true) (h : s.queueFull = false) : startPayment p s = { s with
    lau := { s.lau with
      queue := s.lau.queue ++ [newSlot (.holdTake p.badge p.tag)] }
    pyu := { s.pyu with
      payment := some p, tag := p.tag, lastNewSeq := 0,
      refunds := s.pyu.refunds.map fun r => if r.badge = p.badge ∧ p.refundUsed.isSome = true then { r with inUse := true } else r }
    plg := { s.plg with
      reserve := s.plg.reserve + 3 }
    oru := { s.oru with
      queue := s.oru.queue.map fun o => if some o.number = payOrder p ∧ o.state = .waitPay then { o with paying := true } else o } } := by
  unfold startPayment
  rw [if_neg (ne_true_of_eq_false h), offerFrame_holdTake hw, if_neg (ne_true_of_eq_false h)]
  cases horder : p.order with
  | none =>
    have hsame : (s.oru.queue.map fun o => if some o.number = payOrder p ∧ o.state = .waitPay then { o with paying := true } else o)
        = s.oru.queue := by
      refine (List.map_congr_left fun o _ => ?_).trans (List.map_id _)
      simp [payOrder, horder]
    rw [hsame]
    rfl
  | some q =>
    have hmarked : (s.oru.queue.map fun o => if some o.number = payOrder p ∧ o.state = .waitPay then { o with paying := true } else o)
        = s.oru.queue.map fun o => if o.number = q.1 then (if o.state = .waitPay then { o with paying := true } else o) else o := by
      refine List.map_congr_left fun o _ => ?_
      by_cases hn : o.number = q.1 <;> by_cases hs : o.state = .waitPay <;> simp [payOrder, horder, hn, hs]
    rw [hmarked]
    rfl

theorem readerPresent_of_idle (h : s.pyu.payment = none) (badge : Badge) (balance cardSeq : Nat) :
    readerPresent badge balance cardSeq s = (tap badge balance cardSeq s, []) := by
  simp only [readerPresent, h]

theorem exec_tap (hw : s.working = true) (hs : s.Settled) (h : s.pyu.payment = none) (badge : Badge) (balance cardSeq : Nat) :
    exec (.readerPresent badge balance cardSeq) s = .next (tap badge balance cardSeq s) :=
  next_whenWorking_calm hw hs (readerPresent_of_idle h badge balance cardSeq) (calm_tap _ _ _ _)

theorem logRoom_eq_false_iff : (!s.logRoom) = true ↔ 64 < s.plg.log.length + s.plg.reserve + 3 := by
  simp only [State.logRoom, Bool.not_eq_true', decide_eq_false_iff_not, Nat.not_le]

/-- A statement by the same tests as the value that it speaks of. -/
theorem follow_ite {α : Type} {x a b : α} {c d : Prop} [Decidable c] [Decidable d] {A B : Prop} (h : x = if c then a else b)
    (hc : c ↔ d) (ha : x = a → A) (hb : x = b → B) : if d then A else B := by
  by_cases hd : d
  · rw [if_pos hd]
    exact ha (h.trans (if_pos (hc.mpr hd)))
  · rw [if_neg hd]
    exact hb (h.trans (if_neg (mt hc.mp hd)))

/-- Settles O45: the tests of a tap in turn, and the payment that starts where all pass. -/
theorem tapsStartPayments : Obligations.TapsStartPayments := by
  intro s badge balance cardSeq hw hs hnone target refund price number sum answers denied denies starts
  have hexec {t : State} (h : tap badge balance cardSeq s = t) : answers t := (exec_tap hw hs hnone badge balance cardSeq).trans (h ▸ rfl)
  have hdenies {code : Nat} (h : tap badge balance cardSeq s = denyTap number code s) (hcode : code ≠ 0) : denies code :=
    hexec (h.trans (denyTap_of_code hcode))
  have hstarts {credit : Option Nat} {deferred : Bool}
      (h : tap badge balance cardSeq s = startPayment (s.newPayment badge balance cardSeq target credit deferred) s) :
      starts credit deferred := by
    have horder : payOrder (s.newPayment badge balance cardSeq target credit deferred) = number := by
      simp only [payOrder, State.newPayment, Option.map_map, number]
      rfl
    refine ⟨fun hfull => hexec (h.trans ((startPayment_of_full hfull).trans ?_)),
      fun hroom => hexec (h.trans ((startPayment_of_room hw hroom).trans ?_))⟩ <;> rw [horder] <;> rfl
  have htap : tap badge balance cardSeq s =
      if target.isNone && refund.isNone then denyTap none 0 s
      else if s.peerHolds badge 0 then denyTap number 1 s
      else if !s.logRoom then denyTap number 2 s
      else if target.isSome && decide (sum < price) then denyTap number 3 s
      else if sum - price ≤ 65535 then startPayment (s.newPayment badge balance cardSeq target refund false) s
      else if target.isNone then denyTap number 4 s
      else if balance < price then denyTap number 3 s
      else startPayment (s.newPayment badge balance cardSeq target none true) s := rfl
  refine follow_ite htap Iff.rfl hexec fun htap => ?_
  refine follow_ite htap Iff.rfl (hdenies · (by decide)) fun htap => ?_
  refine follow_ite htap logRoom_eq_false_iff (hdenies · (by decide)) fun htap => ?_
  refine follow_ite htap Iff.rfl (hdenies · (by decide)) fun htap => ?_
  refine follow_ite htap Iff.rfl hstarts fun htap => ?_
  refine follow_ite htap Iff.rfl (hdenies · (by decide)) fun htap => ?_
  exact follow_ite htap Iff.rfl (hdenies · (by decide)) hstarts

end Sys2Proof.Proofs
end

section
/-! ## The records of the reader, the timers of a payment (R140 to R142, R146, R150, R151, R155, R157, R158) -/

namespace Sys2Proof.Proofs

open Sys2Proof Sys2Proof.Machine

variable {s t : State} {p : Payment}

/-! ### Gathering -/

/-- Characters that follow one another without an idle bit time make one record (R140). -/
theorem readerGather_record (chars : List (Byte × Bool)) (rest : List ReaderChar) (start : Nat) (h : ∀ d ∈ rest, d.idle < 30) :
    readerGather rest start (.record chars) = [chars ++ rest.map fun d => (d.data, d.stopLow)] := by
  induction rest generalizing chars start with
  | nil => simp [readerGather]
  | cons d rest ih =>
    have hshort : ¬30 ≤ d.idle := Nat.not_le.mpr (h d (List.mem_cons_self ..))
    simp only [readerGather, readerTake, hshort, if_false, List.nil_append]
    rw [ih _ _ fun e he => h e (List.mem_cons_of_mem _ he), List.append_assoc]
    rfl

theorem readerGather_off (chars : List ReaderChar) (start : Nat) : readerGather chars start .off = [] := by
  induction chars generalizing start with
  | nil => rfl
  | cons c rest ih => simpa [readerGather, readerTake] using ih _

theorem readerRecords_of_off (h : s.pyu.reader = .off) (chars : List ReaderChar) : s.readerRecords chars = [] := by
  rw [State.readerRecords, h]
  exact readerGather_off chars _

/-- In GAP the first character starts a record where three character times of idle have passed (R140). -/
theorem readerRecords_of_gap {since : Nat} (h : s.pyu.reader = .gap since) (c : ReaderChar) (rest : List ReaderChar) :
    s.readerRecords (c :: rest) = readerGather rest (s.units + 30 * c.idle + 300)
      (if since + readerSpan (c :: rest) + 900 ≤ s.units + 30 * c.idle ∧ 30 ≤ c.idle then .record [(c.data, c.stopLow)]
       else .gap (max (since + readerSpan (c :: rest)) (s.units + 30 * c.idle + 300))) := by
  simp only [State.readerRecords, h, readerGather, readerTake, List.nil_append]

/-! ### A bad record -/

theorem exec_readerRecordBad (hw : s.working = true) (chars : List ReaderChar) : exec (.readerRecordBad chars) s =
    feed (((s.readerRecords chars).filterMap readerRecordOf).map readerRow) (readerHeard s) := by
  rw [feed_readerRows]
  exact congrArg Host.Outcome.next (if_pos hw)

/-! ### Records that meet no payment, or a payment -/

section Payment

theorem awaitsReply_iff (hp : s.pyu.payment = some p) (badge : Badge) :
    s.awaitsReply badge = true ↔ badge = p.badge ∧ p.state ≠ .hold := by
  have hstate : (p.state == .writing || p.state == .verify) = true ↔ p.state ≠ .hold := by
    cases p.state <;> decide
  rw [State.awaitsReply, hp, Option.any_some, Bool.and_eq_true, hstate, beq_iff_eq, eq_comm]

theorem awaitsReply_of_none (h : s.pyu.payment = none) (badge : Badge) : s.awaitsReply badge = false := by
  simp [State.awaitsReply, h]

theorem readerRemoved_of_none (h : s.pyu.payment = none) (badge : Badge) : readerRemoved badge s = (s, []) := by
  simp [readerRemoved, h]

theorem readerWritten_of_unawaited {badge : Badge} {newSeq : Nat} (h : s.awaitsReply badge = false) :
    readerWritten badge newSeq s = (s, []) := if_neg (ne_true_of_eq_false h)

theorem readerWriteFailed_of_unawaited {badge : Badge} {rejected : Bool} (h : s.awaitsReply badge = false) :
    readerWriteFailed badge rejected s = (s, []) := by
  simp [readerWriteFailed, h]

theorem readerPresent_of_other (hp : s.pyu.payment = some p) {badge : Badge} (h : badge ≠ p.badge) (balance cardSeq : Nat) :
    readerPresent badge balance cardSeq s = (sendSignal false s, []) := by
  simp [readerPresent, hp, h.symm]

theorem readerPresent_of_same (hp : s.pyu.payment = some p) (balance cardSeq : Nat) :
    readerPresent p.badge balance cardSeq s = if p.state = .verify then retap p balance cardSeq s else (s, []) := by
  simp [readerPresent, hp]

theorem readerRemoved_iff (hp : s.pyu.payment = some p) (badge : Badge) :
    readerRemoved badge s = if badge = p.badge ∧ p.state = .hold then endUnpaid .removed s else (s, []) := by
  simp only [readerRemoved, hp, Option.any_some, Bool.and_eq_true, beq_iff_eq]
  simp only [eq_comm (a := p.badge)]

theorem enterVerify_of_some (hp : s.pyu.payment = some p) : enterVerify s = postNotice .payRetap (payOrder p) 0 0 0
    (s.onPyu fun u => { u with
      payment := some { p with state := .verify, deadline := some (s.timeBase + s.conf.retapWindowS * 1000) } }) := by
  simp only [enterVerify, hp, setPayment_of_some hp]

theorem readerWriteFailed_of_awaited (hp : s.pyu.payment = some p) (h : p.state ≠ .hold) (rejected : Bool) :
    readerWriteFailed p.badge rejected s =
      if rejected then endUnpaid .rejected s else if p.state = .writing then (enterVerify s, []) else (s, []) := by
  have hawaits : s.awaitsReply p.badge = true := (awaitsReply_iff hp p.badge).mpr ⟨rfl, h⟩
  simp [readerWriteFailed, hawaits, hp]

end Payment

/-- Settles O46: the records by the receiver; each record by whether it meets a payment of its badge and the state of that. -/
theorem readerRecordsMeetThePayment : Obligations.ReaderRecordsMeetThePayment := by
  refine ⟨fun s chars => ⟨_, rfl⟩, ?_⟩
  intro s hw heard
  have hheard : readerHeard s = heard := rfl
  have hexec {f : State → Eff} {e : Eff} (h : f s = e) : (Host.Outcome.next (whenWorking f s) : Out) = .next (react e) :=
    (next_whenWorking hw f).trans (congrArg (fun e => Host.Outcome.next (react e)) h)
  refine ⟨exec_readerRecordBad hw, fun chars hbad => ?_, fun since c rest hgap => ?_, fun chars hoff => readerRecords_of_off hoff chars,
    fun hs hnone => ?_, fun p hs hp => ?_⟩
  · have hnothing : (s.readerRecords chars).filterMap readerRecordOf = [] := List.filterMap_eq_nil_iff.mpr hbad
    rw [exec_readerRecordBad hw, hnothing, hheard]
    rfl
  · intro span early
    have hrecords := readerRecords_of_gap hgap c rest
    refine ⟨fun hearly hrest => ?_, fun hlate hshort => ?_⟩
    · rw [hrecords, if_neg, hrest]
      · rfl
      · rintro ⟨hpassed, hidle⟩
        rcases hearly with hearly | hearly
        · exact absurd hpassed (Nat.not_le.mpr hearly)
        · omega
    · rw [hrecords, if_pos, readerGather_record _ _ _ hshort]
      · rfl
      · simp only [early, not_or, Nat.not_lt] at hlate
        exact hlate
  · exact ⟨fun badge => next_whenWorking_calm hw hs (readerRemoved_of_none hnone badge) rfl,
      fun badge newSeq => next_whenWorking_calm hw hs (readerWritten_of_unawaited (awaitsReply_of_none hnone badge)) rfl,
      fun badge rejected => next_whenWorking_calm hw hs (readerWriteFailed_of_unawaited (awaitsReply_of_none hnone badge)) rfl⟩
  · intro ends sendsAgain
    have hunawaited {badge : Badge} (h : ¬(badge = p.badge ∧ p.state ≠ .hold)) : s.awaitsReply badge = false :=
      Bool.eq_false_iff.mpr (mt (awaitsReply_iff hp badge).mp h)
    refine ⟨fun badge balance cardSeq hother => next_whenWorking_calm hw hs (readerPresent_of_other hp hother _ _) (calm_sendSignal _ _),
      fun balance cardSeq hstate => next_whenWorking_calm hw hs ((readerPresent_of_same hp _ _).trans (if_neg hstate)) rfl,
      fun balance cardSeq hstate => ?_, fun badge hbadge hstate => hexec ((readerRemoved_iff hp badge).trans (if_pos ⟨hbadge, hstate⟩)),
      fun badge hnot => next_whenWorking_calm hw hs ((readerRemoved_iff hp badge).trans (if_neg hnot)) rfl,
      fun badge newSeq hbadge hstate => hexec (if_pos ((awaitsReply_iff hp badge).mpr ⟨hbadge, hstate⟩)),
      fun badge newSeq hnot => next_whenWorking_calm hw hs (readerWritten_of_unawaited (hunawaited hnot)) rfl,
      fun hstate => hexec (readerWriteFailed_of_awaited hp hstate true), fun hstate => ?_, fun hstate => ?_,
      fun badge rejected hnot => next_whenWorking_calm hw hs (readerWriteFailed_of_unawaited (hunawaited hnot)) rfl⟩
    · intro written untouched
      have hretap : readerPresent p.badge balance cardSeq s = retap p balance cardSeq s :=
        (readerPresent_of_same hp _ _).trans (if_pos hstate)
      refine ⟨fun hwritten => hexec (hretap.trans (if_pos hwritten)), fun hnot huntouched hlapsed => hexec (hretap.trans ?_),
        fun hnot huntouched hlapsed hheld => hexec (hretap.trans ?_), fun hnot huntouched hlapsed hfree => ?_,
        fun hnot hchanged => hexec (hretap.trans ?_)⟩
      · exact (if_neg hnot).trans ((if_pos huntouched).trans (if_pos hlapsed))
      · exact (if_neg hnot).trans ((if_pos huntouched).trans ((if_neg (ne_true_of_eq_false hlapsed)).trans (if_pos hheld)))
      · refine next_whenWorking_calm hw hs (t := sendsAgain) (hretap.trans ?_) rfl
        refine (if_neg hnot).trans ((if_pos huntouched).trans ((if_neg (ne_true_of_eq_false hlapsed)).trans
          ((if_neg (ne_true_of_eq_false hfree)).trans ?_)))
        rw [enterWriting_of_some hp]
      · exact (if_neg hnot).trans (if_neg hchanged)
    · refine next_whenWorking_calm hw hs ((readerWriteFailed_of_awaited hp (by rw [hstate]; decide) false).trans ?_)
        (calm_postNotice _ _ _ _ _ _)
      rw [if_neg Bool.false_ne_true, if_pos hstate, enterVerify_of_some hp]
      rfl
    · refine next_whenWorking_calm hw hs ((readerWriteFailed_of_awaited hp (by rw [hstate]; decide) false).trans ?_) rfl
      rw [if_neg Bool.false_ne_true, if_neg (by rw [hstate]; decide)]

/-! ### Timers -/

theorem readerSend_of_queue {r : ReaderOut} {rest : List ReaderOut} (h : s.pyu.sendQueue = r :: rest) : readerSend s =
    s.onPyu fun u => { u with
      sendQueue := rest, lastRecord := readerOutBytes r, sendFreeAt := s.units + (readerOutBytes r).length * 300 + 900,
      payment := u.payment.map fun p => if isWrite r = true ∧ p.state = .writing
        then { p with deadline := some ((s.units + 3000 + 575) / 576 + 400) } else p } := by
  simp only [readerSend, h]
  cases hp : s.pyu.payment with
  | none => simp [State.onPyu, hp]
  | some p => by_cases hwrite : isWrite r = true ∧ p.state = .writing <;> simp [State.onPyu, setPayment, hp, hwrite, State.replyDeadline]

theorem working_of_timer {d x : Bool} (h : (d && x) = true) : d = true := by
  rw [Bool.and_eq_true] at h
  exact h.1

theorem refreshDue_of_some (hp : s.pyu.payment = some p) (hw : s.working = true) : refreshDue s =
    (let u := s.onPyu fun v => { v with payment := some { p with refreshBase := s.timeBase } }
     if s.takeQueued p.tag = true ∨ s.queueFull = true then u
     else u.onLau fun l => { l with queue := l.queue ++ [newSlot (.holdTake p.badge p.tag)] }) := by
  simp only [refreshDue, hp, setPayment_of_some hp, offerRefresh, offerTake]
  rw [offerFrame_holdTake (s := s.onPyu fun v => { v with payment := some { p with refreshBase := s.timeBase } }) hw]
  show (if s.takeQueued p.tag then _ else if s.queueFull then _ else _) = _
  by_cases hqueued : s.takeQueued p.tag = true <;> by_cases hfull : s.queueFull = true <;> simp [hqueued, hfull]

theorem holdWaitEnd_of_some (hp : s.pyu.payment = some p) :
    holdWaitEnd s = endUnpaid (if p.hold = .settled then .badgeBusy else .lineBusy) s := by
  by_cases h : p.hold = .settled <;> simp [holdWaitEnd, hp, h]

theorem retapEnd_of_some (hp : s.pyu.payment = some p) : retapEnd s = endUnpaid .unresolved
    (appendEntry .unresolved p.badge (orZero (p.order.map Prod.snd)) (payOrder p) none none p.refundUsed false s) := by
  simp only [retapEnd, hp]

/-- Settles O48: each timer is its effect on the payment in flight. -/
theorem paymentTimersAct : Obligations.PaymentTimersAct := by
  intro s hs
  refine ⟨fun r rest hdue hqueue => ?_, fun p hp => ⟨fun hdue => ?_, fun hdue => ?_, fun hdue => ?_, fun hdue => ?_, fun hdue => ?_⟩⟩
  · exact next_onDue_calm hdue hs (f := fun s => (readerSend s, [])) (congrArg (·, []) (readerSend_of_queue hqueue)) rfl
  · exact next_onDue_calm hdue hs (f := fun s => (enterVerify s, [])) (congrArg (·, []) (enterVerify_of_some hp))
      (calm_postNotice _ _ _ _ _ _)
  · exact (next_onDue hdue holdWaitEnd).trans (congrArg (fun e => Host.Outcome.next (react e)) (holdWaitEnd_of_some hp))
  · intro u
    have hw : s.working = true := working_of_timer hdue
    refine next_onDue_calm hdue hs (f := fun s => (refreshDue s, [])) (congrArg (·, []) (refreshDue_of_some hp hw)) ?_
    split <;> rfl
  · exact next_onDue_calm hdue hs (f := fun s => (setPayment (fun p => { p with lapsed := true }) s, []))
      (congrArg (·, []) (setPayment_of_some hp _)) rfl
  · exact (next_onDue hdue retapEnd).trans (congrArg (fun e => Host.Outcome.next (react e)) (retapEnd_of_some hp))

end Sys2Proof.Proofs
end

section
/-! ## The end of a payment (R148, R154, R159, R163 to R165) -/

namespace Sys2Proof.Proofs

open Sys2Proof Sys2Proof.Machine

variable {s t : State} {p : Payment} {n : Nat} {o : Order}

/-! ### What a SIGNAL leaves -/

theorem sendSignal_refunds (b : Bool) (s : State) : (sendSignal b s).pyu.refunds = s.pyu.refunds := by
  unfold sendSignal
  split <;> rfl

/-! ### Ends unpaid -/

/-- The state after an end unpaid has been told: SIGNAL, notice, HOLD FREE (R148). -/
def unpaidTold (code : PayCode) (p : Payment) (s : State) : State :=
  let u := postNotice .payDenied (payOrder p) code.code 0 0 (if silent code then s else sendSignal false s)
  if p.taken then offerFrame (.holdFree p.badge) u else u

theorem unpaidTold_keeps (code : PayCode) (p : Payment) (s : State) :
    (unpaidTold code p s).plg = s.plg ∧ (unpaidTold code p s).oru = s.oru ∧ (unpaidTold code p s).pyu.refunds = s.pyu.refunds := by
  have hrefunds := sendSignal_refunds false s
  unfold unpaidTold
  cases p.taken <;> cases silent code <;> simp [hrefunds]

/-- The state after an end unpaid: no payment, no refund in use, the reserve of a payment given back (R148). -/
def endedUnpaid (code : PayCode) (p : Payment) (s : State) : State :=
  { unpaidTold code p s with
    pyu := { (unpaidTold code p s).pyu with
      payment := none, refunds := s.pyu.refunds.map fun r => { r with inUse := false } }
    plg := { s.plg with
      reserve := s.plg.reserve - 3 } }

theorem endUnpaid_eq (hp : s.pyu.payment = some p) (code : PayCode) : endUnpaid code s =
    (match p.order with
     | some q => oruPaymentOver q.1 (endedUnpaid code p s)
     | none => (endedUnpaid code p s, [])) := by
  obtain ⟨hplg, _, hrefunds⟩ := unpaidTold_keeps code p s
  have hended : (reserveDown 3 (freeRefunds (unpaidTold code p s))).onPyu (fun u => { u with payment := none })
      = endedUnpaid code p s := by
    unfold endedUnpaid
    rw [← hplg, ← hrefunds]
    rfl
  rw [← hended]
  simp only [endUnpaid, hp] <;> rfl

theorem silent_iff (code : PayCode) : silent code = true ↔ code = .removed ∨ code = .unresolved := by
  cases code <;> decide

/-- A record without the paying mark (R127). -/
def unpaying (o : Order) : Order := { o with paying := false }

theorem orderOf_setOrder_none {f : Order → Order} (hf : ∀ o, (f o).number = o.number) (h : s.orderOf n = none) :
    (setOrder n f s).orderOf n = none := by
  simp only [State.orderOf, List.find?_eq_none, setOrder_eq, State.onOru] at h ⊢
  intro o ho
  obtain ⟨o', ho', rfl⟩ := List.mem_map.mp ho
  rw [atNumber_number hf]
  exact h o' ho'

theorem oruPaymentOver_of_open (h : (s.orderOf n).all (fun o => !o.windowExpired) = true) :
    oruPaymentOver n s = (setOrder n unpaying s, []) := by
  show (match (setOrder n unpaying s).orderOf n with
    | some o => if o.windowExpired then closeOrder o .expired (setOrder n unpaying s) else (setOrder n unpaying s, [])
    | none => (setOrder n unpaying s, [])) = _
  cases horder : s.orderOf n with
  | none => rw [orderOf_setOrder_none (f := unpaying) (fun _ => rfl) horder]
  | some o =>
    have hopen : o.windowExpired = false := by simpa [horder] using h
    rw [orderOf_setOrder (f := unpaying) (fun _ => rfl) horder]
    exact if_neg (ne_true_of_eq_false hopen)

/-- An unpaid order whose window has passed closes EXPIRED when its payment is over (R127, R128). -/
theorem oruPaymentOver_of_expired (h : s.orderOf n = some o) (hwindow : o.windowExpired = true) (hstate : o.state = .waitPay)
    (hdebit : o.debitSeq = none) : oruPaymentOver n s =
      ((setOrder n unpaying s).onOru fun q => { q with queue := q.queue.filter fun x => x.number != n },
       [.post .orderClosed (some n) 5 0 0, .oruCupPending]) := by
  have hover : oruPaymentOver n s = closeOrder (unpaying o) .expired (setOrder n unpaying s) := by
    show (match (setOrder n unpaying s).orderOf n with
      | some o => if o.windowExpired then closeOrder o .expired (setOrder n unpaying s) else (setOrder n unpaying s, [])
      | none => (setOrder n unpaying s, [])) = _
    rw [orderOf_setOrder (f := unpaying) (fun _ => rfl) h]
    exact if_pos hwindow
  have hnumber : o.number = n := number_of_orderOf h
  have hrunning : (unpaying o).state ≠ .running := fun hrun => by simp [show o.state = .running from hrun] at hstate
  have hclosed : closedUnmade (unpaying o) (setOrder n unpaying s) = withoutOrder (unpaying o) (setOrder n unpaying s) := by
    rw [closedUnmade, show (unpaying o).debitSeq = none from hdebit]
    rfl
  rw [hover, closeOrder_unmade (.inr rfl) hrunning, hclosed, withoutOrder, show (unpaying o).number = n from hnumber]
  rfl

/-! ### Appends one after another -/

/-- A state reached from `s` by `k` appends to the log (R164). -/
structure Appended (k : Nat) (s t : State) : Prop where
  nextSeq : t.plg.nextSeq = (s.plg.nextSeq + k) % 65536
  epoch : t.plg.epoch = s.plg.epoch
  timeBase : t.timeBase = s.timeBase
  reserve : t.plg.reserve = s.plg.reserve
  oru : t.oru = s.oru

theorem appended_zero (h : s.plg.nextSeq < 65536) : Appended 0 s s :=
  ⟨(Nat.mod_eq_of_lt h).symm, rfl, rfl, rfl, rfl⟩

theorem appended_appendEntry {k : Nat} (h : Appended k s t) (kind badge amount order recipe mode credit unlisted) :
    Appended (k + 1) s (appendEntry kind badge amount order recipe mode credit unlisted t) := by
  have hquiet : (appendEntry kind badge amount order recipe mode credit unlisted t).quiet = t.quiet := quiet_appendEntry _ _ _ _ _ _ _ _
  refine ⟨?_, (congrArg Quiet.epoch hquiet).trans h.epoch, (congrArg Quiet.timeBase hquiet).trans h.timeBase, ?_, ?_⟩
  · rw [appendEntry_nextSeq, h.nextSeq, Nat.mod_add_mod, Nat.add_assoc]
  · rw [appendEntry_reserve, h.reserve]
  · rw [appendEntry_oru, h.oru]

/-- The entry that stands `k` appends on in the log of a state. -/
def logEntryAfter (s : State) (k : Nat) (kind : LogKind) (badge : Badge) (amount : Nat) (order recipe : Option Nat)
    (unlisted : Bool) : LogEntry :=
  { seq := (s.plg.nextSeq + k) % 65536, kind := kind, badge := badge, amount := amount, order := order, recipe := recipe,
    grindMode := none, credit := none, time := s.seconds, epoch := s.plg.epoch, unlisted := unlisted }

theorem log_appendEntry {k : Nat} (h : Appended k s t) (kind badge amount order recipe unlisted) :
    (appendEntry kind badge amount order recipe none none unlisted t).plg.log
      = t.plg.log ++ [logEntryAfter s k kind badge amount order recipe unlisted] := by
  rw [appendEntry_log, h.nextSeq, h.epoch, h.timeBase]
  rfl

/-! ### A payment that completes -/

/-- The CREDIT_BACK of a payment that uses a refund (R154). -/
def creditEntries (s : State) (p : Payment) : List LogEntry :=
  match p.refundUsed with
  | some r => [logEntryAfter s 0 .creditBack p.badge r none none false]
  | none => []

def creditPosted (p : Payment) (s : State) : State :=
  match p.refundUsed with
  | some r => appendEntry .creditBack p.badge r none none none none false s
  | none => s

theorem appended_creditPosted (h : s.plg.nextSeq < 65536) : Appended (creditEntries s p).length s (creditPosted p s) := by
  unfold creditEntries creditPosted
  cases p.refundUsed with
  | none => exact appended_zero h
  | some r => exact appended_appendEntry (appended_zero h) _ _ _ _ _ _ _ _

theorem log_creditPosted (h : s.plg.nextSeq < 65536) : (creditPosted p s).plg.log = s.plg.log ++ creditEntries s p := by
  unfold creditEntries creditPosted
  cases p.refundUsed with
  | none => exact (List.append_nil _).symm
  | some r => exact log_appendEntry (appended_zero h) _ _ _ _ _ _

/-- The refunds after the credit of a payment (R154). -/
def creditRefunds (p : Payment) (l : List Refund) : List Refund :=
  match p.refundUsed with
  | some r => creditedRefunds p.badge r l
  | none => l

def creditTaken (p : Payment) (s : State) : State := s.onPyu fun u => { u with refunds := creditRefunds p u.refunds }

theorem completeAppends_of_credit (h : p.order = none) : completeAppends p s = creditTaken p (creditPosted p s) := by
  unfold completeAppends creditTaken creditPosted creditRefunds
  rw [h]
  cases p.refundUsed <;> rfl

/-- The DEBIT of the order of a payment. -/
def debitPosted (p : Payment) (number price : Nat) (s : State) : State :=
  appendEntry .debit p.badge price (some number) p.recipe none none false (creditPosted p s)

theorem completeAppends_of_order {number price : Nat} (h : p.order = some (number, price)) :
    completeAppends p s = creditTaken p (debitPosted p number price s) := by
  unfold completeAppends creditTaken debitPosted creditPosted creditRefunds
  rw [h]
  cases p.refundUsed <;> rfl

theorem creditPosted_pyu : (creditPosted p s).pyu = s.pyu := by
  unfold creditPosted
  cases p.refundUsed with
  | none => rfl
  | some r => exact appendEntry_pyu ..

theorem creditTaken_refunds (h : t.pyu = s.pyu) : (creditTaken p t).pyu.refunds = creditRefunds p s.pyu.refunds :=
  congrArg (fun u : Pyu => creditRefunds p u.refunds) h

theorem debitPosted_pyu {number price : Nat} : (debitPosted p number price s).pyu = s.pyu :=
  (appendEntry_pyu ..).trans creditPosted_pyu

/-! ### What completion leaves to the frame, the signal and the notice -/

/-- What the tail of a completed payment reads. -/
def tailView (s : State) := (s.lau, s.pyu.sendQueue, s.pins, s.timeBase, s.plk.mode)

theorem tailView_postNotice (k o c d1 d2) : tailView (postNotice k o c d1 d2 s) = tailView s := by
  unfold postNotice
  repeat' split
  all_goals rfl

theorem tailView_appendEntry (kind badge amount order recipe mode credit unlisted) :
    tailView (appendEntry kind badge amount order recipe mode credit unlisted s) = tailView s := by
  unfold appendEntry watermarkTest
  split
  · exact tailView_postNotice ..
  · rfl

theorem tailView_creditPosted : tailView (creditPosted p s) = tailView s := by
  unfold creditPosted
  cases p.refundUsed with
  | none => rfl
  | some r => exact tailView_appendEntry ..

theorem completeTail_keeps (order : Option Nat) (code : Nat) : (completeTail p order code s).plg = s.plg
    ∧ (completeTail p order code s).oru = s.oru ∧ (completeTail p order code s).pyu.refunds = s.pyu.refunds := by
  refine ⟨?_, ?_, ?_⟩
  · exact (postNotice_plg ..).trans ((sendSignal_plg _).trans (offerFrame_plg _))
  · exact (postNotice_oru ..).trans ((sendSignal_oru _).trans (offerFrame_oru _))
  · exact (congrArg Pyu.refunds (postNotice_pyu ..)).trans ((sendSignal_refunds _ _).trans (congrArg Pyu.refunds (offerFrame_pyu _)))

theorem completePayment_of_credit (hp : s.pyu.payment = some p) (h : p.order = none) :
    completePayment s = (completeTail p none 3 (reserveDown 3 (completeAppends p s)), []) := by
  simp only [completePayment, hp, h]

theorem completePayment_of_order (hp : s.pyu.payment = some p) {number price : Nat} (h : p.order = some (number, price)) :
    completePayment s =
      if s.payable number then
        (completeTail p (some number) 1 (reserveUp 1 (reserveDown 3
          (oruPaid number p.badge (((completeAppends p s).plg.nextSeq + 65535) % 65536) (completeAppends p s)))),
         [.oruCupPending, .oruStart])
      else (completeTail p (some number) 2 (reserveDown 3 (appendRefundDue p.badge price number (completeAppends p s))), []) := by
  simp only [completePayment, hp, h]

theorem tailView_completeAppends : tailView (completeAppends p s) = tailView s := by
  cases h : p.order with
  | none =>
    rw [completeAppends_of_credit h]
    exact tailView_creditPosted
  | some q =>
    rw [completeAppends_of_order (number := q.1) (price := q.2) h]
    exact (tailView_appendEntry (s := creditPosted p s) ..).trans tailView_creditPosted

/-- The state that the tail of a completed payment takes up, and the tail's code (R154). -/
theorem completePayment_tail (hp : s.pyu.payment = some p) : ∃ w : State, tailView w = tailView s
    ∧ (completePayment s).1 = completeTail p (p.order.map Prod.fst)
        (if p.order = none then 3 else if (p.order.any fun q => s.payable q.1) = true then 1 else 2) w := by
  cases h : p.order with
  | none => exact ⟨reserveDown 3 (completeAppends p s), tailView_completeAppends (p := p), by rw [completePayment_of_credit hp h]; rfl⟩
  | some q =>
    rw [completePayment_of_order hp (number := q.1) (price := q.2) h]
    by_cases hpaid : s.payable q.1 = true
    · refine ⟨_, ?_, by rw [if_pos hpaid]; simp [hpaid]; rfl⟩
      exact tailView_completeAppends (p := p)
    · refine ⟨_, ?_, by rw [if_neg hpaid]; simp [hpaid]; rfl⟩
      exact (tailView_appendEntry ..).trans (tailView_completeAppends (p := p))

/-- The sequence of the DEBIT is the one before the next (R154). -/
theorem debitSeq_eq {k m : Nat} (h : m = (n + (k + 1)) % 65536) : (m + 65535) % 65536 = (n + k) % 65536 := by
  omega

section Complete

variable (hp : s.pyu.payment = some p) (hseq : s.plg.nextSeq < 65536)

include hseq

theorem appended_debitPosted {number price : Nat} :
    Appended ((creditEntries s p).length + 1) s (debitPosted p number price s) :=
  appended_appendEntry (appended_creditPosted hseq) ..

theorem log_debitPosted {number price : Nat} : (debitPosted p number price s).plg.log = s.plg.log ++ creditEntries s p
    ++ [logEntryAfter s (creditEntries s p).length .debit p.badge price (some number) p.recipe false] := by
  rw [debitPosted, log_appendEntry (appended_creditPosted hseq), log_creditPosted hseq]

include hp

theorem completePayment_credit (h : p.order = none) :
    (completePayment s).1.plg.log = s.plg.log ++ creditEntries s p ∧ (completePayment s).1.plg.reserve = s.plg.reserve - 3
    ∧ (completePayment s).1.pyu.refunds = creditRefunds p s.pyu.refunds ∧ (completePayment s).1.oru = s.oru := by
  rw [completePayment_of_credit hp h, completeAppends_of_credit h]
  obtain ⟨hplg, horu, hrefunds⟩ := completeTail_keeps (p := p) (s := reserveDown 3 (creditTaken p (creditPosted p s))) none 3
  have happended := appended_creditPosted (p := p) hseq
  refine ⟨?_, ?_, ?_, horu.trans happended.oru⟩
  · rw [hplg, ← log_creditPosted hseq]
    rfl
  · rw [hplg, ← happended.reserve]
    rfl
  · exact hrefunds.trans (creditTaken_refunds creditPosted_pyu)

theorem completePayment_paid {number price : Nat} (h : p.order = some (number, price)) (hpaid : s.payable number = true) :
    (completePayment s).1.plg.log = s.plg.log ++ creditEntries s p
        ++ [logEntryAfter s (creditEntries s p).length .debit p.badge price (some number) p.recipe false]
    ∧ (completePayment s).1.plg.reserve = s.plg.reserve - 3 + 1
    ∧ (completePayment s).1.pyu.refunds = creditRefunds p s.pyu.refunds
    ∧ (completePayment s).2 = [.oruCupPending, .oruStart]
    ∧ (completePayment s).1.oru
        = (oruPaid number p.badge ((s.plg.nextSeq + (creditEntries s p).length) % 65536) s).oru := by
  have happended := appended_debitPosted (p := p) (number := number) (price := price) hseq
  rw [completePayment_of_order hp h, if_pos hpaid, completeAppends_of_order h]
  have hdebit : ((creditTaken p (debitPosted p number price s)).plg.nextSeq + 65535) % 65536
      = (s.plg.nextSeq + (creditEntries s p).length) % 65536 := debitSeq_eq happended.nextSeq
  rw [hdebit]
  obtain ⟨hplg, horu, hrefunds⟩ := completeTail_keeps (p := p) (s := reserveUp 1 (reserveDown 3 (oruPaid number p.badge
    ((s.plg.nextSeq + (creditEntries s p).length) % 65536) (creditTaken p (debitPosted p number price s))))) (some number) 1
  refine ⟨?_, ?_, ?_, rfl, ?_⟩
  · rw [hplg, ← log_debitPosted hseq]
    rfl
  · rw [hplg, ← happended.reserve]
    rfl
  · exact hrefunds.trans (creditTaken_refunds debitPosted_pyu)
  · rw [horu]
    show (oruPaid _ _ _ (creditTaken p (debitPosted p number price s))).oru = _
    simp only [oruPaid, setOrder, State.onOru, creditTaken, State.onPyu, happended.oru]

theorem completePayment_closed {number price : Nat} (h : p.order = some (number, price)) (hclosed : s.payable number = false) :
    (completePayment s).1.plg.log = s.plg.log ++ creditEntries s p
        ++ [logEntryAfter s (creditEntries s p).length .debit p.badge price (some number) p.recipe false,
            logEntryAfter s ((creditEntries s p).length + 1) .refundDue p.badge price (some number) none
              (dueUnlisted (creditRefunds p s.pyu.refunds) p.badge price)]
    ∧ (completePayment s).1.plg.reserve = s.plg.reserve - 3
    ∧ (completePayment s).1.pyu.refunds = addDue (creditRefunds p s.pyu.refunds) p.badge price s.timeBase
    ∧ (completePayment s).1.oru = s.oru := by
  have happended := appended_debitPosted (p := p) (number := number) (price := price) hseq
  rw [completePayment_of_order hp h, if_neg (ne_true_of_eq_false hclosed), completeAppends_of_order h]
  obtain ⟨hplg, horu, hrefunds⟩ := completeTail_keeps (p := p)
    (s := reserveDown 3 (appendRefundDue p.badge price number (creditTaken p (debitPosted p number price s)))) (some number) 2
  have htaken : (creditTaken p (debitPosted p number price s)).pyu.refunds = creditRefunds p s.pyu.refunds :=
    creditTaken_refunds debitPosted_pyu
  have hlisted : Appended ((creditEntries s p).length + 1) s
      (listDue p.badge price (creditTaken p (debitPosted p number price s))) :=
    ⟨happended.nextSeq, happended.epoch, happended.timeBase, happended.reserve, happended.oru⟩
  have hdue : appendRefundDue p.badge price number (creditTaken p (debitPosted p number price s)) =
      appendEntry .refundDue p.badge price (some number) none none none (dueUnlisted (creditRefunds p s.pyu.refunds) p.badge price)
        (listDue p.badge price (creditTaken p (debitPosted p number price s))) := by
    rw [appendRefundDue, htaken]
  rw [hdue] at hplg horu hrefunds ⊢
  have hposted := appended_appendEntry hlisted .refundDue p.badge price (some number) none none none
    (dueUnlisted (creditRefunds p s.pyu.refunds) p.badge price)
  refine ⟨?_, ?_, ?_, horu.trans hposted.oru⟩
  · rw [hplg]
    refine (log_appendEntry hlisted ..).trans ?_
    refine (congrArg (· ++ _) (log_debitPosted (p := p) (number := number) (price := price) hseq)).trans ?_
    simp only [List.append_assoc, List.cons_append, List.nil_append]
  · rw [hplg, ← hposted.reserve]
    rfl
  · rw [hrefunds]
    refine (congrArg Pyu.refunds (appendEntry_pyu ..)).trans ?_
    show addDue (creditTaken p (debitPosted p number price s)).pyu.refunds p.badge price (debitPosted p number price s).timeBase = _
    rw [htaken, happended.timeBase]

end Complete

/-- Settles O47: an end unpaid by what becomes of its order; completion by the appends in their order and the answer to PAID. -/
theorem paymentsEndOrComplete : Obligations.PaymentsEndOrComplete := by
  intro s p hp hnum
  refine ⟨?_, ?_⟩
  · intro code u v ended
    have hu : u = postNotice .payDenied (payOrder p) code.code 0 0 (if silent code then s else sendSignal false s) := by
      simp only [silent_iff] <;> rfl
    have hended : ended = endedUnpaid code p s := by
      show ({ v with pyu := _, plg := _ } : State) = _
      have hv : v = unpaidTold code p s := by
        show (if p.taken then offerFrame (.holdFree p.badge) u else u) = _
        rw [hu]
        rfl
      rw [hv]
      rfl
    have horu : ended.oru = s.oru := by
      rw [hended]
      exact (unpaidTold_keeps code p s).2.1
    have hend : endUnpaid code s = (match p.order with
        | some q => oruPaymentOver q.1 ended
        | none => (ended, [])) := by
      rw [hended]
      exact (endUnpaid_eq hp code).trans rfl
    refine ⟨fun hnone => hend.trans (by rw [hnone]), fun number price horder => ?_⟩
    intro unmarked
    have hover : endUnpaid code s = oruPaymentOver number ended := hend.trans (by rw [horder])
    have hfound : ended.orderOf number = s.orderOf number := by
      rw [State.orderOf, horu]
      rfl
    exact ⟨fun hopen => hover.trans (oruPaymentOver_of_open (by rwa [hfound])),
      fun o ho hwindow hstate hdebit => hover.trans (oruPaymentOver_of_expired (hfound.trans ho) hwindow hstate hdebit)⟩
  · intro t paid entry credits refunds debitSeq
    have hcredits : credits = creditEntries s p := rfl
    have hrefunds : refunds = creditRefunds p s.pyu.refunds := rfl
    have hpaid {number price : Nat} (h : p.order = some (number, price)) : paid = s.payable number := by
      show p.order.any _ = _
      rw [h]
      rfl
    refine ⟨?_, ?_, completePayment_credit hp hnum.log, fun number price horder => ⟨fun h => ?_, fun h => ?_⟩⟩
    · obtain ⟨w, _, hw⟩ := completePayment_tail hp
      show (completePayment s).1.pyu.payment = none
      rw [hw]
      rfl
    · obtain ⟨w, hview, hw⟩ := completePayment_tail hp
      simp only [tailView, Prod.mk.injEq] at hview
      obtain ⟨hlau, hqueue, hpins, htime, hmode⟩ := hview
      exact ⟨w, hlau, hqueue, hpins, htime, hmode, hw⟩
    · exact completePayment_paid hp hnum.log horder (hpaid horder ▸ h)
    · obtain ⟨hlog, hreserve, hlisted, horu⟩ := completePayment_closed hp hnum.log horder (hpaid horder ▸ h)
      refine ⟨hlog.trans ?_, hreserve, hlisted, horu⟩
      rfl

end Sys2Proof.Proofs
end

section
/-! ## The log requests, the cleaning timers and the cleaning requests (R120, R166, R167, R177, R180 to R182, R188 to R190) -/

namespace Sys2Proof.Proofs

open Sys2Proof Sys2Proof.Machine

variable {s t : State} {c : Cycle}

/-! ### The log -/

theorem ackLog_of_absent {n : Nat} {log : List LogEntry} (h : ∀ e ∈ log, e.seq ≠ n) : ackLog n log = none := by
  induction log with
  | nil => rfl
  | cons e rest ih =>
    rw [ackLog, if_neg (h e (List.mem_cons_self ..))]
    exact ih fun d hd => h d (List.mem_cons_of_mem _ hd)

theorem ackLog_of_first {n : Nat} {older rest : List LogEntry} {e : LogEntry} (h : ∀ d ∈ older, d.seq ≠ n) (he : e.seq = n) :
    ackLog n (older ++ e :: rest) = some rest := by
  induction older with
  | nil => exact if_pos he
  | cons d older ih =>
    rw [List.cons_append, ackLog, if_neg (h d (List.mem_cons_self ..))]
    exact ih fun x hx => h x (List.mem_cons_of_mem _ hx)

theorem answerLogAck_of_none {n : Nat} (h : ackLog n s.plg.log = none) : answerLogAck n s = refuse .badSequence s := by
  simp only [answerLogAck, h]

theorem answerLogAck_of_some {n : Nat} {rest : List LogEntry} (h : ackLog n s.plg.log = some rest) : answerLogAck n s =
    answerOk (s.onPlg fun p => { p with log := rest, armed := p.armed || decide (rest.length < s.conf.watermark) })
      (field1 (s.plg.log.length - rest.length) ++ field1 rest.length) := by
  simp only [answerLogAck, h]

/-- Settles O49: the read by its body, the acknowledgement by where the sequence stands in the log. -/
theorem logIsReadAndAcknowledged : Obligations.LogIsReadAndAcknowledged := by
  intro s hline hmode
  have hack (n : Nat) : exec (.logAck n) s = .next (placeReply 5#8 5 (answerLogAck n s)) :=
    congrArg Host.Outcome.next (request_of_admitted 5 2 (answerLogAck n) hline hmode)
  refine ⟨?_, fun n habsent => ?_, fun n older e rest hlog holder he => ?_⟩
  · refine congrArg Host.Outcome.next ((request_of_admitted 4 0 answerLogRead hline hmode).trans ?_)
    rw [answerLogRead, List.length_take]
    rfl
  · rw [hack, answerLogAck_of_none (ackLog_of_absent habsent)]
    rfl
  · have hlength : s.plg.log.length - rest.length = older.length + 1 := by
      rw [hlog, List.length_append, List.length_cons]
      omega
    rw [hack, answerLogAck_of_some (hlog ▸ ackLog_of_first holder he), hlength]
    rfl

/-! ### The step in hand -/

theorem running_of_dueStep (h : s.dueStep = true) : s.stepRunning = true ∧ s.runningStep.isSome = true := by
  rw [State.dueStep, Bool.and_eq_true] at h
  obtain ⟨_, hany⟩ := h
  cases hr : s.runningStep with
  | none => simp [hr] at hany
  | some c =>
    refine ⟨Decidable.byContradiction fun hstill => ?_, rfl⟩
    simp [State.runningStep, hstill] at hr

theorem runningStep_of_dueStep (h : s.dueStep = true) (hcycle : s.clc.cycle = some c) : s.runningStep = some c := by
  obtain ⟨hrunning, hsome⟩ := running_of_dueStep h
  simp only [State.runningStep, hrunning, if_true, hcycle] at hsome ⊢
  cases hheld : c.unitHeld with
  | false => simp [Option.filter, hheld] at hsome
  | true => simp [Option.filter, hheld]

theorem runningKind_of_dueStep (h : s.dueStep = true) (hcycle : s.clc.cycle = some c) : s.runningKind = some (cycleStep c) := by
  rw [State.runningKind, runningStep_of_dueStep h hcycle]
  rfl

theorem notSuspended_of_running (h : s.stepRunning = true) : s.clc.state ≠ .suspended := by
  rcases stepRunning_iff.mp h with h | h <;> rw [h] <;> decide

theorem heldKind_of_cycle (hcycle : s.clc.cycle = some c) : s.heldKind = some c.kind := by
  simp only [State.heldKind, hcycle]

/-! ### Aborts -/

/-- The cycle is given up; a cancel or a prompt left alone holds its kind back (R189). -/
def abortedClc (code : Reason) (k : CleanKind) (u : Clc) : Clc :=
  { u with
    state := .idle, cycle := none, resume := none
    held := if code = .cancelled ∨ code = .promptTimeout then setKindMark u.held k true else u.held }

/-- A latched RINSE becomes due again (R189). -/
def rinseAgain (s t : State) : State := if s.clc.rinseRequired then setDue .rinse t else t

theorem clcAbort_of_held {k : CleanKind} (h : s.heldKind = some k) (code : Reason) (fromStop : Bool) : clcAbort code fromStop s =
    (rinseAgain s (s.onClc (abortedClc code k)),
     (if !fromStop && s.runningStep.isSome && asksStop code then [.stopEvent code] else [])
       ++ (if s.runningStep.isSome then [.brcStepEnd] else [])
       ++ (if s.clc.state = .suspended then [] else [.stuCleanWish false]) ++ [.post .cleanDone none 3 k.code code.code]) := by
  simp only [clcAbort, h]
  rfl

theorem clcAbort_of_running {code : Reason} (hdue : s.dueStep = true) (hcycle : s.clc.cycle = some c) (hasks : asksStop code = true) :
    clcAbort code false s = (rinseAgain s (s.onClc (abortedClc code c.kind)),
      [.stopEvent code, .brcStepEnd, .stuCleanWish false, .post .cleanDone none 3 c.kind.code code.code]) := by
  obtain ⟨hrunning, hsome⟩ := running_of_dueStep hdue
  rw [clcAbort_of_held (heldKind_of_cycle hcycle), hsome, hasks, if_neg (notSuspended_of_running hrunning)]
  rfl

theorem clcStepEnd_of_cycle (hcycle : s.clc.cycle = some c) : clcStepEnd s =
    (s.onClc fun u => { u with state := .run, cycle := some { c with unitHeld := false, deadline := none } },
     [.brcStepEnd, .clcStepTail]) := by
  simp [clcStepEnd, setCycle, State.onClc, hcycle]

/-! ### Starting a cycle -/

theorem startCycle_eq (s : State) : s.startCycle = (match s.clc.resume with
    | some r => some { kind := r.kind, step := r.step, unitHeld := false, stretch := false, deadline := none, resuming := true }
    | none => s.nextKind.map fun k =>
        { kind := k, step := 1, unitHeld := false, stretch := false, deadline := none, resuming := false }) := by
  unfold State.startCycle
  cases s.clc.resume <;> rfl

theorem clcStart_of_cycle (h : s.startCycle = some c) : clcStart s =
    ((s.onClc fun u => { u with state := .waitSlot, cycle := some c }).onBrc fun b => { b with standby := false, standbySince := none },
     [.stuCleanWish true] ++ if s.brc.standby then [.brcHeat] else []) := by
  have hceased : (s.onClc fun u => { u with state := .waitSlot, cycle := some c }).standbyConditions = false := by
    simp [State.standbyConditions, State.onClc]
  simp only [clcStart, h, clearStandby_of_ceased hceased]
  rfl

theorem startable_of_dueCycle (h : s.dueCycle = true) : s.clc.resume.isSome = true ∨ s.nextKind.isSome = true := by
  simp only [State.dueCycle, State.startConditions, Bool.and_eq_true, Bool.or_eq_true] at h
  obtain ⟨_, ⟨⟨⟨⟨⟨hkind, _⟩, _⟩, _⟩, _⟩, _⟩⟩ := h
  exact hkind.symm

theorem clcDrop_of_resume {r : Resume} (h : s.clc.resume = some r) : clcDrop s =
    (s.onClc fun u => { u with state := .idle, cycle := none, resume := none },
     (if s.clc.state = .waitSlot then [.stuCleanWish false] else []) ++ [.post .cleanDone none 2 r.kind.code 0]) := by
  simp only [clcDrop, h]

/-- Settles O51: each timer by the step in hand that it ends, aborts or starts. -/
theorem cleaningTimersAct : Obligations.CleaningTimersAct := by
  intro s hs
  have hsettles {e e' : Eff} (h : e = e') : (Host.Outcome.next (react e) : Out) = .next (react e') :=
    congrArg (fun e => Host.Outcome.next (react e)) h
  have hboth {a b : Bool} (ha : a = true) (hb : b = true) : (a && b) = true := by rw [ha, hb]; rfl
  refine ⟨fun c hdue hstart => ?_, startable_of_dueCycle, fun hdue hflush harmed => ?_, fun hdue hflush hfree => ?_,
    fun c hdue hcycle => ?_, fun r hdue hresume => ?_⟩
  · exact (next_onDue hdue clcStart).trans (hsettles (clcStart_of_cycle ((startCycle_eq s).trans hstart)))
  · exact (next_onDue (hboth hdue hflush) (disarm .flow)).trans (hsettles (disarm_of_armed harmed))
  · exact next_onDue_calm (hboth hdue hflush) hs (disarm_of_free hfree) rfl
  · have hkind := runningKind_of_dueStep hdue hcycle
    refine ⟨fun hstep => ?_, fun htimed => ?_, fun hstate => ?_⟩
    · have hwait : (s.runningKind == some .heatWait) = true := by rw [hkind, hstep]; rfl
      exact (next_onDue (hboth hdue hwait) (clcAbort .heatTimeout false)).trans (hsettles (clcAbort_of_running hdue hcycle rfl))
    · rw [← hkind] at htimed
      exact (next_onDue (hboth hdue htimed) clcStepEnd).trans (hsettles (clcStepEnd_of_cycle hcycle))
    · exact (next_onDue (hboth hdue (beq_iff_eq.mpr hstate)) (clcAbort .promptTimeout false)).trans
        (hsettles (clcAbort_of_running hdue hcycle rfl))
  · exact (next_onDue hdue clcDrop).trans (hsettles (clcDrop_of_resume hresume))

/-! ### Cleaning requests -/

theorem cleanKindOfCode_of_outside {n : Nat} (h : n = 0 ∨ 3 < n) : cleanKindOfCode n = none := by
  match n, h with
  | 0, _ => rfl
  | 1, h | 2, h | 3, h => omega
  | n + 4, _ => rfl

theorem cleanKindOfCode_code (k : CleanKind) : cleanKindOfCode k.code = some k := by
  cases k <;> rfl

theorem answerCleanRequest_of_none {n : Nat} (h : cleanKindOfCode n = none) : answerCleanRequest n s = refuse .badRequest s := by
  simp only [answerCleanRequest, h]

theorem answerCleanRequest_of_code (k : CleanKind) : answerCleanRequest k.code s =
    answerOk (react ((setDue k s).onClc fun u => { u with held := setKindMark u.held k false }, [])) [] := by
  simp only [answerCleanRequest, cleanKindOfCode_code]

theorem clcAbort_cancelled {k : CleanKind} (h : s.heldKind = some k) : clcAbort .cancelled false s =
    (rinseAgain s (s.onClc (abortedClc .cancelled k)),
     (if s.runningStep.isSome then [.stopEvent .cancelled, .brcStepEnd] else [])
       ++ (if s.clc.state = .suspended then [] else [.stuCleanWish false]) ++ [.post .cleanDone none 3 k.code 12]) := by
  rw [clcAbort_of_held h]
  cases s.runningStep <;> rfl

/-- Settles O53: each request by the station mode, and then by the cycle in hand. -/
theorem cleaningRequestsAct : Obligations.CleaningRequestsAct := by
  intro s hline answers
  have hrequest (kind length : Nat) (owner : State → Answer) {a : Answer}
      (h : ((modeRefusal .cleaning s.plk.mode).map fun r => refuse r s).getD (owner s) = a) :
      request kind length .cleaning owner s = placeReply (byteOf kind) (length + 3) a :=
    (request_of_listening hline kind length .cleaning owner).trans (congrArg _ h)
  have hclean (kind : Byte) {a : Answer} (h : ((modeRefusal .cleaning s.plk.mode).map fun r => refuse r s).getD
      (answerCleanRequest kind.toNat s) = a) : exec (.cleanRequest kind) s = .next (placeReply 8#8 4 a) :=
    congrArg Host.Outcome.next (hrequest 8 1 _ h)
  have hcancel {a : Answer} (h : ((modeRefusal .cleaning s.plk.mode).map fun r => refuse r s).getD (answerCleanCancel s) = a) :
      exec .cleanCancel s = .next (placeReply 9#8 3 a) := congrArg Host.Outcome.next (hrequest 9 0 _ h)
  have hdone {a : Answer} (h : ((modeRefusal .cleaning s.plk.mode).map fun r => refuse r s).getD (answerPromptDone s) = a) :
      exec .promptDone s = .next (placeReply 10#8 3 a) := congrArg Host.Outcome.next (hrequest 10 0 _ h)
  refine ⟨fun kind hmode => hclean kind (by rw [hmode]; rfl), fun hmode => ⟨hcancel (by rw [hmode]; rfl), hdone (by rw [hmode]; rfl)⟩,
    fun kind hmode => hclean kind (by rw [hmode]; rfl), fun hmode => ⟨hcancel (by rw [hmode]; rfl), hdone (by rw [hmode]; rfl)⟩,
    fun hmode => ?_⟩
  have hadmitted : modeRefusal .cleaning s.plk.mode = none := by
    rcases hmode with hmode | hmode <;> rw [hmode] <;> rfl
  refine ⟨fun kind hkind => hclean kind ?_, fun kind k hkind => hclean kind ?_, fun hidle => hcancel ?_, fun k hstate hk => hcancel ?_,
    fun hstate => hdone ?_, fun c hstate hcycle => hdone ?_⟩ <;> rw [hadmitted] <;> refine (Option.getD_none ..).trans ?_
  · exact answerCleanRequest_of_none (cleanKindOfCode_of_outside hkind)
  · rw [← hkind]
    exact answerCleanRequest_of_code k
  · exact if_pos hidle
  · refine (if_neg hstate).trans ?_
    rw [clcAbort_cancelled hk]
    rfl
  · exact if_neg hstate
  · refine (if_pos hstate).trans ?_
    rw [clcStepEnd_of_cycle hcycle]
    rfl

end Sys2Proof.Proofs
end

section
/-! ## Cleaning counters and steps (R172, R173, R175, R178, R179, R181 to R185) -/

namespace Sys2Proof.Proofs

open Sys2Proof Sys2Proof.Machine

variable {s t : State} {c : Cycle}

/-! ### The tests of a STEP request -/

/-- What a refused STEP request makes of the cycle: an abort with a reason, or a wait (R179). -/
def abortReason : UnitRefusal → Option Reason
  | .notServing => some .notServing
  | .fault => some .fault
  | .noSlot => some .noSlot
  | .rinseRequired | .busy _ | .noBase => none

/-- The tests of a STEP request, each with the reason of the abort that it brings (R104, R179). -/
def stepTests (s : State) : List (Bool × Option Reason) :=
  [(decide (s.plk.mode ≠ .serving), some .notServing), (s.grc.fault || s.brc.stuck || s.brc.overheat, some .fault),
   (!s.stu.confirmed.clean, some .noSlot), (s.brc.retained, none), (decide (s.brc.unit ≠ .idle), none), (!s.dcu.basePerm, none)]

theorem stepTest_reason (s : State) : s.stepTest.map abortReason = ((stepTests s).find? (·.1)).map (·.2) := by
  refine firstFailed_cons abortReason _ _ (by simp) rfl ?_
  refine firstFailed_cons abortReason _ _ Iff.rfl rfl ?_
  refine firstFailed_cons abortReason _ _ Iff.rfl rfl ?_
  refine firstFailed_cons abortReason _ _ Iff.rfl rfl ?_
  refine firstFailed_cons abortReason _ _ (by simp) rfl ?_
  exact firstFailed_cons abortReason _ _ Iff.rfl rfl rfl

theorem stepTest_of_passed (h : (stepTests s).find? (·.1) = none) : s.stepTest = none := by
  have htest := stepTest_reason s
  rw [h] at htest
  exact Option.map_eq_none_iff.mp htest

theorem stepTest_of_failed {test : Bool × Option Reason} (h : (stepTests s).find? (·.1) = some test) :
    ∃ r, s.stepTest = some r ∧ abortReason r = test.2 := by
  have htest := stepTest_reason s
  rw [h] at htest
  exact Option.map_eq_some_iff.mp htest

/-- A refusal that brings no abort comes from the unit. -/
theorem unitTests_of_stepTest {r : UnitRefusal} (h : s.stepTest = some r) (hwaits : abortReason r = none) : s.unitTests = some r := by
  unfold State.stepTest at h
  have hnot {a : UnitRefusal} (ha : some a = some r) (habort : abortReason a ≠ none) : s.unitTests = some r :=
    absurd (Option.some.inj ha ▸ hwaits) habort
  split at h
  · exact hnot h (by decide)
  split at h
  · exact hnot h (by decide)
  split at h
  · exact hnot h (by decide)
  exact h

/-- The cup run holds the unit where that is what a request is refused for. -/
theorem unitTests_busy_cup_iff {r : UnitRefusal} (h : s.unitTests = some r) :
    r = .busy .cup ↔ s.brc.retained = false ∧ s.brc.unit = .cup := by
  unfold State.unitTests at h
  by_cases hretained : s.brc.retained = true
  · obtain rfl := Option.some.inj ((if_pos hretained).symm.trans h)
    simp [hretained]
  rw [if_neg hretained] at h
  by_cases hunit : s.brc.unit = .idle
  · rw [if_neg (not_not_intro hunit)] at h
    have hbase : r = .noBase := by
      split at h
      · exact (Option.some.inj h).symm
      · cases h
    simp [hbase, hunit]
  · obtain rfl := Option.some.inj ((if_pos hunit).symm.trans h)
    simp [hretained]

/-! ### The request -/

section Request

variable (hstate : s.clc.state = .run) (hcycle : s.clc.cycle = some c) (hheld : c.unitHeld = false)

include hstate hcycle hheld

/-- A STEP request by the answer of the brew unit (R179). -/
theorem clcRequest_eq : clcRequest s = (match s.stepTest with
    | none => beginStep (cycleStep c) (grantStep (cycleStep c) (grantedStep s))
    | some r =>
      let s1 := if waits r then s.onBrc fun b => { b with stepWaiting := true } else s
      match r with
      | .busy .cup => if interruptible c then clcSuspend s1 else (s1, [])
      | .busy _ | .noBase | .rinseRequired => (s1, [.clcCupPending])
      | .noSlot => clcAbort .noSlot false s1
      | .fault => clcAbort .fault false s1
      | .notServing => clcAbort .notServing false s1) := by
  simp only [clcRequest, hcycle, hstate, hheld] <;> rfl

theorem clcRequest_granted (h : s.stepTest = none) :
    clcRequest s = beginStep (cycleStep c) (grantStep (cycleStep c) (grantedStep s)) := by
  rw [clcRequest_eq hstate hcycle hheld, h]

theorem clcRequest_aborted {r : UnitRefusal} {reason : Reason} (h : s.stepTest = some r) (hreason : abortReason r = some reason) :
    clcRequest s = clcAbort reason false s := by
  rw [clcRequest_eq hstate hcycle hheld, h]
  cases r with
  | notServing | fault | noSlot =>
    obtain rfl := Option.some.inj hreason
    rfl
  | rinseRequired | busy _ | noBase => cases hreason

theorem clcRequest_waiting {r : UnitRefusal} (h : s.stepTest = some r) (hreason : abortReason r = none) (hcup : r ≠ .busy .cup) :
    clcRequest s = (s.onBrc fun b => { b with stepWaiting := true }, [.clcCupPending]) := by
  rw [clcRequest_eq hstate hcycle hheld, h]
  cases r with
  | notServing | fault | noSlot => cases hreason
  | rinseRequired | noBase => rfl
  | busy holder =>
    cases holder with
    | cup => exact absurd rfl hcup
    | idle | step | recovery => rfl

theorem clcRequest_busy_cup (h : s.stepTest = some (.busy .cup)) : clcRequest s =
    (let u := s.onBrc fun b => { b with stepWaiting := true }
     if interruptible c then clcSuspend u else (u, [])) := by
  rw [clcRequest_eq hstate hcycle hheld, h]
  rfl

theorem runningStep_of_unheld : s.runningStep = none := by
  simp [State.runningStep, State.stepRunning, hstate, hcycle, hheld, Option.filter]

/-- A waiting step that gives way (R185). -/
theorem clcSuspend_waiting : clcSuspend (s.onBrc fun b => { b with stepWaiting := true }) =
    ((s.onBrc fun b => { b with stepWaiting := true }).onClc fun u => { u with
      state := .suspended, cycle := none, resume := some { kind := c.kind, step := c.step, time := s.timeBase } },
     [.stuCleanWish false]) := by
  have hnone : (s.onBrc fun b => { b with stepWaiting := true }).runningStep = none := runningStep_of_unheld hstate hcycle hheld
  rw [clcSuspend, hnone, suspended_of_cycle (s := s.onBrc fun b => { b with stepWaiting := true }) hcycle]
  rfl

/-- A waiting step that is aborted holds nothing of the unit (R189). -/
theorem clcAbort_waiting {reason : Reason} (hcancel : ¬(reason = .cancelled ∨ reason = .promptTimeout)) :
    clcAbort reason false s =
      (rinseAgain s (s.onClc fun u => { u with state := .idle, cycle := none, resume := none }),
       [.stuCleanWish false, .post .cleanDone none 3 c.kind.code reason.code]) := by
  have hkept : abortedClc reason c.kind = fun u => { u with state := .idle, cycle := none, resume := none } := by
    funext u
    rw [abortedClc, if_neg hcancel]
  rw [clcAbort_of_held (heldKind_of_cycle hcycle), runningStep_of_unheld hstate hcycle hheld, hstate, hkept]
  rfl

/-- What follows the end of a step (R181). -/
theorem clcStepTail_eq : clcStepTail s =
    if c.step = (cycleSteps c.kind).length then clcComplete c.kind s
    else if lastOfStretch c.kind c.step then
      (s.onClc fun u => { u with cycle := some { c with step := c.step + 1, stretch := false }, rinseRequired := false },
       [.brcOffer, .clcRequest])
    else (s.onClc fun u => { u with cycle := some { c with step := c.step + 1 } }, [.clcRequest]) := by
  simp only [clcStepTail, hcycle, hstate, hheld, setCycle, State.onClc, Option.map_some]
  rfl

end Request

theorem cancelled_not_abortReason {r : UnitRefusal} {reason : Reason} (h : abortReason r = some reason) :
    ¬(reason = .cancelled ∨ reason = .promptTimeout) := by
  cases r <;> cases h <;> decide

/-! ### The grant of a step -/

theorem firstOfStretch_iff (k : CleanKind) (n : Nat) : firstOfStretch k n = true ↔ (k = .clean ∧ n = 3) ∨ (k = .descale ∧ n = 2) := by
  cases k with
  | rinse => simp [firstOfStretch, stretchOf]
  | clean | descale => simp [firstOfStretch, stretchOf, eq_comm (a := n)]

theorem lastOfStretch_iff (k : CleanKind) (n : Nat) : lastOfStretch k n = true ↔ (k = .clean ∧ n = 8) ∨ (k = .descale ∧ n = 10) := by
  cases k with
  | rinse => simp [lastOfStretch, stretchOf]
  | clean | descale => simp [lastOfStretch, stretchOf, eq_comm (a := n)]

/-- The state in which the work of a granted step begins, for its cycle state and deadline (R104, R179, R183). -/
def stepGranted (s : State) (c : Cycle) (state : CycleState) (deadline : Option Nat) : State :=
  { s with
    clc := { s.clc with
      state := state, resume := none, rinseRequired := s.clc.rinseRequired || firstOfStretch c.kind c.step
      cycle := some { c with
        unitHeld := true, resuming := false, stretch := c.stretch || firstOfStretch c.kind c.step, deadline := deadline } }
    brc := { s.brc with
      unit := .step, stepWaiting := false, step := some { kind := cycleStep c, strokesLeft := strokesOf (cycleStep c) } } }

theorem grantStep_grantedStep (hstate : s.clc.state = .run) (hcycle : s.clc.cycle = some c) :
    grantStep (cycleStep c) (grantedStep s) = stepGranted s c .run c.deadline := by
  have hgranted : grantedStep s = s.onClc fun u => { u with
      state := .run, resume := none, rinseRequired := s.clc.rinseRequired || firstOfStretch c.kind c.step
      cycle := some { c with
        unitHeld := true, resuming := false, stretch := c.stretch || firstOfStretch c.kind c.step } } := by
    simp only [grantedStep, enterStretch, setCycle, State.onClc, hcycle, Option.map_some]
    by_cases hfirst : firstOfStretch c.kind c.step = true <;> simp [hfirst, ← hstate]
  rw [hgranted]
  rfl

/-- The work of a granted step (R55, R180, R182). -/
theorem beginStep_granted (hstate : s.clc.state = .run) (hcycle : s.clc.cycle = some c) :
    beginStep (cycleStep c) (grantStep (cycleStep c) (grantedStep s)) = (match cycleStep c with
      | .heatWait => (phaseSet .idle (stepGranted s c .run (some (s.timeBase + s.conf.heatWaitS * 1000))), [.brcServeStep])
      | .flush _ | .csoak _ | .drain _ => (stepGranted s c .run c.deadline, [.brcServeStep])
      | .motion _ => (phaseSet .motion (stepGranted s c .run c.deadline), [.brcServeStep])
      | .prompt code => (postNotice .cleanPrompt none code 0 0
          (phaseSet .idle (stepGranted s c .prompt (some (s.timeBase + s.conf.promptTimeoutMin * 60000)))),
          [.brcServeStep, .clcCupPending])) := by
  rw [grantStep_grantedStep hstate hcycle]
  cases hk : cycleStep c <;> rfl

/-! ### The obligation -/

theorem flowCount_of_part (h : s.clc.residue + 1 < 10 * s.conf.flowPer10ml) :
    flowCount s = s.onClc fun c => { c with residue := c.residue + 1 } := if_pos h

theorem flowCount_of_full (h : 10 * s.conf.flowPer10ml ≤ s.clc.residue + 1) : flowCount s =
    (let w := min 65535 (s.clc.waterSinceDescale + 1)
     let u := s.onClc fun c => { c with residue := 0, waterSinceDescale := w }
     if s.clc.waterSinceDescale < 10 * s.conf.descaleThresholdL ∧ 10 * s.conf.descaleThresholdL ≤ w
       then setDue .descale u else u) := by
  simp only [flowCount, Nat.not_lt.mpr h, if_false, Nat.mul_comm _ 10]

theorem clcRequest_of_idle (h : s.clc.cycle = none ∨ s.clc.state ≠ .run) : clcRequest s = (s, []) := by
  cases hcycle : s.clc.cycle with
  | none => simp only [clcRequest, hcycle]
  | some c =>
    have hstate : s.clc.state ≠ .run := h.resolve_left (by simp [hcycle])
    simp [clcRequest, hcycle, hstate]

theorem clcRequest_of_held (hcycle : s.clc.cycle = some c) (hheld : c.unitHeld = true) : clcRequest s = (s, []) := by
  simp [clcRequest, hcycle, hheld]

/-- The number of the last step of each kind (R175). -/
theorem cycleSteps_length (k : CleanKind) : (cycleSteps k).length = (match k with
    | .rinse => 3
    | .clean => 9
    | .descale => 11) := by
  cases k <;> rfl

/-- Settles O52: the counters, and the request and the tail of a step by its tests and its place in the cycle. -/
theorem cleaningCountersAndSteps : Obligations.CleaningCountersAndSteps := by
  refine ⟨⟨rfl, rfl, rfl⟩, fun s => ⟨flowCount_of_part, flowCount_of_full, rfl, fun h => if_pos h, fun h => if_neg h,
    clcRequest_of_idle, fun c => clcRequest_of_held, fun k h => if_pos h, fun k h => if_neg (ne_true_of_eq_false h)⟩, ?_⟩
  intro s c hstate hcycle hheld last stretchEnd stretchStart step tests granted waiting
  have hgranted (state : CycleState) (deadline : Option Nat) : stepGranted s c state deadline = granted state deadline := by
    have hstart : firstOfStretch c.kind c.step = stretchStart := by
      rw [Bool.eq_iff_iff, firstOfStretch_iff, decide_eq_true_iff]
    simp only [stepGranted, hstart] <;> rfl
  have htail := clcStepTail_eq hstate hcycle hheld
  refine ⟨fun htests => ?_, fun test reason htests hreason => ?_, fun test htests hnone => ?_, fun hlast hend => ?_, fun hend => ?_,
    fun hlast => ?_⟩
  · refine (clcRequest_granted hstate hcycle hheld (stepTest_of_passed htests)).trans ((beginStep_granted hstate hcycle).trans ?_)
    simp only [hgranted] <;> rfl
  · obtain ⟨r, hr, hreasonOf⟩ := stepTest_of_failed htests
    rw [hreason] at hreasonOf
    exact (clcRequest_aborted hstate hcycle hheld hr hreasonOf).trans
      (clcAbort_waiting hstate hcycle hheld (cancelled_not_abortReason hreasonOf))
  · obtain ⟨r, hr, hreasonOf⟩ := stepTest_of_failed htests
    rw [hnone] at hreasonOf
    have hcup := unitTests_busy_cup_iff (unitTests_of_stepTest hr hreasonOf)
    refine ⟨fun hholds hinter => ?_, fun hholds hinter => ?_, fun hholds => ?_⟩
    · obtain rfl := hcup.mpr hholds
      exact (clcRequest_busy_cup hstate hcycle hheld hr).trans ((if_pos hinter).trans (clcSuspend_waiting hstate hcycle hheld))
    · obtain rfl := hcup.mpr hholds
      exact (clcRequest_busy_cup hstate hcycle hheld hr).trans (if_neg (ne_true_of_eq_false hinter))
    · exact clcRequest_waiting hstate hcycle hheld hr hreasonOf (mt hcup.mp hholds)
  · refine htail.trans ((if_neg ?_).trans (if_neg (mt (lastOfStretch_iff _ _).mp hend)))
    rw [cycleSteps_length]
    exact hlast
  · refine htail.trans ((if_neg ?_).trans (if_pos ((lastOfStretch_iff _ _).mpr hend)))
    rcases hend with ⟨hkind, hstep⟩ | ⟨hkind, hstep⟩ <;> rw [hkind, hstep] <;> decide
  · refine ⟨_, htail.trans (if_pos ?_), ?_⟩
    · rw [cycleSteps_length]
      exact hlast
    · cases c.kind <;> exact ⟨rfl, rfl, rfl, rfl, rfl, rfl, rfl, rfl, rfl, rfl, rfl⟩

end Sys2Proof.Proofs
end

section
/-! ## Admission by the station mode, and the reads of the panel link (R192 to R197, R208) -/

namespace Sys2Proof.Proofs

open Sys2Proof Sys2Proof.Machine

variable {s t : State}

/-! ### What a request leaves of the reply slot -/

/-- The reply slot and the reset line. -/
def slotView (s : State) : Option Reply × Bool := (s.plk.reply, s.pins.resetAsserted)

theorem slotView_of_quiet (h : t.quiet = s.quiet) : slotView t = slotView s := by
  simp only [State.quiet, Quiet.mk.injEq] at h
  simp [slotView, h]

theorem slotView_react (e : Eff) : slotView (react e) = slotView e.1 := slotView_of_quiet (quiet_react e)

theorem slotView_react_of_quiet {e : Eff} (h : e.1.quiet = s.quiet) : slotView (react e) = slotView s :=
  (slotView_react e).trans (slotView_of_quiet h)

theorem slotView_answerLogAck (n : Nat) : slotView (answerLogAck n s).state = slotView s := by
  unfold answerLogAck
  split <;> rfl

theorem slotView_answerOrder (recipe size strength payMode : Nat) :
    slotView (answerOrder recipe size strength payMode s).state = slotView s := by
  rcases answerOrder_cases recipe size strength payMode s with ⟨r, _, h⟩ | ⟨o, body, _, h⟩ <;> rw [h]
  · rfl
  · rw [admitOrder_eq]
    exact slotView_react _

theorem quiet_cancelOrder (n : Nat) : (cancelOrder n s).1.1.quiet = s.quiet := by
  unfold cancelOrder cancelRun
  dsimp only
  repeat' split
  all_goals simp

theorem slotView_answerCancel (n : Nat) : slotView (answerCancel n s).state = slotView s := by
  dsimp only [answerCancel]
  split
  · rfl
  · exact slotView_react_of_quiet (quiet_cancelOrder n)

theorem slotView_answerCleanRequest (kind : Nat) : slotView (answerCleanRequest kind s).state = slotView s := by
  unfold answerCleanRequest
  split
  · rfl
  · exact slotView_react_of_quiet (by simp)

theorem slotView_answerCleanCancel : slotView (answerCleanCancel s).state = slotView s := by
  unfold answerCleanCancel
  split
  · rfl
  · exact slotView_react_of_quiet (by simp)

theorem slotView_answerPromptDone : slotView (answerPromptDone s).state = slotView s := by
  unfold answerPromptDone
  split
  · exact slotView_react_of_quiet (by simp)
  · rfl

theorem slotView_answerServiceEnter : slotView (answerServiceEnter s).state = slotView s := by
  have hentered : slotView (clearStandby (enterMode .service s).1).1 = slotView s :=
    (slotView_of_quiet (s := (enterMode .service s).1) quiet_clearStandby).trans rfl
  unfold answerServiceEnter
  repeat' split
  all_goals first | rfl | exact (slotView_react _).trans hentered

theorem slotView_enterMode (m : Mode) : slotView (enterMode m s).1 = slotView s := by
  dsimp only [enterMode]
  split
  · exact (slotView_of_quiet (s := s.onPlk fun p => { p with mode := m }) (quiet_phaseSet _)).trans rfl
  · rfl

theorem slotView_answerServiceLeave : slotView (answerServiceLeave s).state = slotView s :=
  (slotView_react _).trans ((slotView_enterMode _).trans (slotView_of_quiet (by simp)))

theorem quiet_serviceDrive {channel value : Nat} {e : Eff} (h : serviceDrive channel value s = .ok e) : e.1.quiet = s.quiet := by
  simp only [serviceDrive, serviceGrindOff, serviceGrindOn, serviceMove] at h
  repeat' split at h
  all_goals cases h
  all_goals repeat' split
  all_goals simp

theorem slotView_answerServiceDrive (channel value : Nat) : slotView (answerServiceDrive channel value s).state = slotView s := by
  unfold answerServiceDrive
  repeat' split
  all_goals first
    | rfl
    | next e he => exact slotView_react_of_quiet (quiet_serviceDrive he)

/-! ### Admission -/

/-- The row of R196 for a request kind. -/
def admissionOf (kind : Nat) : Admission :=
  if kind = 1 ∨ kind = 15 then .always
  else if kind ≤ 7 then .unlessHalted
  else if kind ≤ 10 then .cleaning
  else if kind = 12 ∨ kind = 13 then .service
  else .enter

/-- A request of the panel processor is judged by the row of its kind and answered by its owner (R192, R196). -/
theorem exec_of_panelRequest {c : Instr} {kind : Nat} {body : List Byte} (h : panelRequest c = some (kind, body)) (s : State) :
    ∃ owner : State → Answer, exec c s = .next (request kind body.length (admissionOf kind) owner s)
      ∧ slotView (owner s).state = slotView s := by
  cases c with
  | status => cases h; exact ⟨answerStatus, rfl, rfl⟩
  | noticeRead => cases h; exact ⟨answerNoticeRead, rfl, rfl⟩
  | logRead => cases h; exact ⟨answerLogRead, rfl, rfl⟩
  | logAck n => cases h; exact ⟨answerLogAck n, rfl, slotView_answerLogAck n⟩
  | order r z w m => cases h; exact ⟨answerOrder r.toNat z.toNat w.toNat m.toNat, rfl, slotView_answerOrder _ _ _ _⟩
  | cancel n => cases h; exact ⟨answerCancel n.toNat, rfl, slotView_answerCancel _⟩
  | cleanRequest k => cases h; exact ⟨answerCleanRequest k.toNat, rfl, slotView_answerCleanRequest _⟩
  | cleanCancel => cases h; exact ⟨answerCleanCancel, rfl, slotView_answerCleanCancel⟩
  | promptDone => cases h; exact ⟨answerPromptDone, rfl, slotView_answerPromptDone⟩
  | serviceEnter => cases h; exact ⟨answerServiceEnter, rfl, slotView_answerServiceEnter⟩
  | serviceLeave => cases h; exact ⟨answerServiceLeave, rfl, slotView_answerServiceLeave⟩
  | serviceReset => cases h; exact ⟨answerServiceReset, rfl, slotView_react _⟩
  | serviceDrive k v => cases h; exact ⟨answerServiceDrive k.toNat v.toNat, rfl, slotView_answerServiceDrive _ _⟩
  | partId => cases h; exact ⟨answerPartId, rfl, rfl⟩
  | _ => cases h

theorem modeRefusal_halted {kind : Nat} (h1 : kind ≠ 1) (h15 : kind ≠ 15) : modeRefusal (admissionOf kind) .halted = some .configBad := by
  unfold admissionOf
  rw [if_neg (by omega)]
  (repeat' split) <;> rfl

theorem modeRefusal_start {kind : Nat} (h8 : 8 ≤ kind) (h14 : kind ≤ 14) : modeRefusal (admissionOf kind) .start = some .notReady := by
  obtain rfl | rfl | rfl | rfl | rfl | rfl | rfl : kind = 8 ∨ kind = 9 ∨ kind = 10 ∨ kind = 11 ∨ kind = 12 ∨ kind = 13
    ∨ kind = 14 := by omega
  all_goals rfl

theorem modeRefusal_serving {kind : Nat} (h : kind = 12 ∨ kind = 13) : modeRefusal (admissionOf kind) .serving = some .notService := by
  rcases h with rfl | rfl <;> rfl

/-- Whatever answers, the reply stands in the slot and shows on the line (R193). -/
theorem placeReply_answers {a : Answer} {kind : Byte} {n : Nat} (h : slotView a.state = slotView s) (hline : s.pins.resetAsserted = false) :
    ∃ r, (placeReply kind n a).plk.reply = some r ∧ r.kind = kind ∧ r.lost = s.plk.reply.isSome
      ∧ (placeReply kind n a).rdyLine = true := by
  simp only [slotView, Prod.mk.injEq] at h
  obtain ⟨hreply, hasserted⟩ := h
  refine ⟨_, rfl, rfl, congrArg Option.isSome hreply, ?_⟩
  show (true && !a.state.pins.resetAsserted) = true
  rw [hasserted, hline]
  rfl

/-- Settles O54: the row of R196 for the kind, in each station mode. -/
theorem requestsAreAdmittedByMode : Obligations.RequestsAreAdmittedByMode := by
  intro s c kind body hrequest refused
  obtain ⟨owner, hexec, hslot⟩ := exec_of_panelRequest hrequest s
  refine ⟨fun hline => hexec.trans (congrArg Host.Outcome.next (if_pos hline)), fun hline => ?_⟩
  have hlistening := request_of_listening hline kind body.length (admissionOf kind) owner
  have hrefused {r : Result} (h : modeRefusal (admissionOf kind) s.plk.mode = some r) : refused r := by
    refine hexec.trans (congrArg Host.Outcome.next (hlistening.trans ?_))
    rw [h]
    rfl
  refine ⟨fun hmode h1 h15 => hrefused (by rw [hmode, modeRefusal_halted h1 h15]),
    fun hmode h8 h14 => hrefused (by rw [hmode, modeRefusal_start h8 h14]),
    fun hmode hkind => hrefused (by rw [hmode, modeRefusal_serving hkind]), ?_⟩
  have hkept : slotView ((((modeRefusal (admissionOf kind) s.plk.mode).map fun r => refuse r s).getD (owner s)).state) = slotView s := by
    cases modeRefusal (admissionOf kind) s.plk.mode with
    | none => exact hslot
    | some r => rfl
  obtain ⟨r, hreply, hkind, hlost, hrdy⟩ := placeReply_answers (kind := byteOf kind) (n := body.length + 3) hkept hline
  exact ⟨_, r, hexec.trans (congrArg Host.Outcome.next hlistening), hreply, hkind, hlost, hrdy⟩

/-! ### The length of the STATUS body -/

@[simp] theorem field1_length (n : Nat) : (field1 n).length = 1 := rfl
@[simp] theorem field2_length (n : Nat) : (field2 n).length = 2 := rfl
@[simp] theorem field4_length (n : Nat) : (field4 n).length = 4 := rfl
@[simp] theorem badgeBytes_length (b : Badge) : (badgeBytes b).length = 4 := rfl
@[simp] theorem compositionByte_length (k : Composition) : (compositionByte k).length = 1 := rfl

theorem length_flatten_of_length {α : Type} {size : Nat} {l : List (List α)} (h : ∀ r ∈ l, r.length = size) :
    l.flatten.length = l.length * size := by
  rw [List.length_flatten, List.map_congr_left h, List.map_const', List.sum_replicate_nat]

/-- Records of one length, padded to their number (R197). -/
theorem padRecords_length {count size : Nat} {records : List (List Byte)} (h : ∀ r ∈ records, r.length = size) :
    (padRecords count size records).length = count * size := by
  have hfew : (records.take count).length ≤ count := List.length_take_le count records
  rw [padRecords, List.length_append, length_flatten_of_length fun r hr => h r (List.mem_of_mem_take hr), List.length_replicate,
    ← Nat.add_mul, Nat.add_sub_cancel' hfew]

theorem shareEntryBytes_length (e : ShareEntry) : (shareEntryBytes e).length = 8 := by
  unfold shareEntryBytes
  cases e.held <;> rfl

theorem shareSection_length : s.shareSection.length = 120 := by
  rw [State.shareSection, List.flatMap_def, length_flatten_of_length (size := 8)]
  · simp
  · intro r hr
    obtain ⟨k, _, rfl⟩ := List.mem_map.mp hr
    exact shareEntryBytes_length _

theorem claimSection_length : s.claimSection.length = 8 := by
  unfold State.claimSection
  cases s.stu.pending <;> rfl

theorem orderSection_length : s.orderSection.length = 95 := by
  have hrecords : (padRecords 4 23 (s.oru.queue.map s.orderBytes)).length = 92 := by
    refine padRecords_length fun r hr => ?_
    obtain ⟨o, _, rfl⟩ := List.mem_map.mp hr
    rfl
  simp only [State.orderSection, List.length_append, hrecords]
  rfl

theorem refundSection_length : s.refundSection.length = 177 := by
  have hrecords : (padRecords 16 11 (s.pyu.refunds.map refundBytes)).length = 176 := by
    refine padRecords_length fun r hr => ?_
    obtain ⟨o, _, rfl⟩ := List.mem_map.mp hr
    rfl
  simp only [State.refundSection, List.length_append, hrecords]
  rfl

theorem paymentSection_length : s.paymentSection.length = 24 := by
  unfold State.paymentSection
  cases s.pyu.payment <;> rfl

theorem statusBody_length : s.statusBody.length = 531 := by
  simp only [State.statusBody, List.length_append, claimSection_length, shareSection_length, orderSection_length,
    paymentSection_length, refundSection_length]
  rfl

/-! ### Reads -/

theorem checksum_readReply (length check : Byte) (h : length = 0#8) : sumBytes [2#8, length, check] = 0#8 ↔ check = 0xFE#8 := by
  subst h
  show 0#8 + 2#8 + 0#8 + check = 0#8 ↔ _
  bv_omega

theorem readReply_of_checked {length check : Byte} (hline : s.pins.resetAsserted = false) (hlength : length = 0#8) (hcheck : check = 0xFE#8)
    (clocked : Nat) : readReply length check clocked s = s.onPlk fun p => { p with
      miso := List.replicate 3 idleByte ++ clockOut clocked s.slotBytes,
      reply := if s.slotBytes.length ≤ clocked then none else p.reply } := by
  refine (if_neg (ne_true_of_eq_false hline)).trans (if_neg ?_)
  rintro (h | h)
  · exact h hlength
  · exact h ((checksum_readReply length check hlength).mpr hcheck)

theorem readReply_of_bad {length check : Byte} (hline : s.pins.resetAsserted = false) (h : length ≠ 0#8 ∨ check ≠ 0xFE#8) (clocked : Nat) :
    readReply length check clocked s = s.onPlk fun p => { p with miso := List.replicate (3 + clocked) idleByte } := by
  refine (if_neg (ne_true_of_eq_false hline)).trans (if_pos ?_)
  by_cases hlength : length = 0#8
  · exact .inr (mt (checksum_readReply length check hlength).mp (h.resolve_left (not_not_intro hlength)))
  · exact .inl hlength

/-- Settles O55: each read by its body; the STATUS body by the lengths of its sections. -/
theorem panelReadsAreAnswered : Obligations.PanelReadsAreAnswered := by
  intro s hline
  have hrequest (kind length : Nat) (a : Admission) (owner : State → Answer) (h : modeRefusal a s.plk.mode = none) :
      request kind length a owner s = placeReply (byteOf kind) (length + 3) (owner s) :=
    (request_of_listening hline kind length a owner).trans (by rw [h]; rfl)
  refine ⟨congrArg Host.Outcome.next (hrequest 1 0 .always _ rfl), statusBody_length,
    congrArg Host.Outcome.next (hrequest 15 0 .always _ rfl), fun hmode => ?_, fun length check clocked => ?_⟩
  · refine congrArg Host.Outcome.next ((request_of_admitted 3 0 answerNoticeRead hline hmode).trans ?_)
    rw [answerNoticeRead, List.length_take, List.length_drop]
    rfl
  · intro bytes
    refine ⟨fun hlength hcheck => congrArg Host.Outcome.next ((readReply_of_checked hline hlength hcheck clocked).trans ?_),
      fun hbad => congrArg Host.Outcome.next (readReply_of_bad hline hbad clocked)⟩
    rw [clockOut, ← List.append_assoc]
    rfl

end Sys2Proof.Proofs
end

section
/-! ## The SERVICE mode, and transfers given by their bytes (R67, R83, R97, R106, R118, R192, R193, R198 to R201) -/

namespace Sys2Proof.Proofs

open Sys2Proof Sys2Proof.Machine

variable {s t : State}

/-! ### Entering, leaving and resetting -/

theorem clearStandby_service (s : State) : clearStandby (s.onPlk fun p => { p with mode := .service }) =
    ((s.onPlk fun p => { p with mode := .service }).onBrc fun b => { b with standby := false, standbySince := none },
     if s.brc.standby then [.brcHeat] else []) :=
  clearStandby_of_ceased (s := s.onPlk fun p => { p with mode := .service }) rfl

theorem answerServiceEnter_of_free (hmode : s.plk.mode ≠ .service) (hrunning : s.hasRunning = false) (hstep : s.stepRunning = false)
    (hunit : s.brc.unit ≠ .recovery) : answerServiceEnter s = answerOk (react
      ((s.onBrc fun b => { b with standby := false, standbySince := none }).onPlk fun p => { p with mode := .service },
       (if s.brc.standby then [.brcHeat] else []) ++ [.stuLower, .stuRise .base, .brcHeat])) [] := by
  refine (if_neg hmode).trans ((if_neg (ne_true_of_eq_false hrunning)).trans ((if_neg (ne_true_of_eq_false hstep)).trans
    ((if_neg hunit).trans ?_)))
  show answerOk (react ((clearStandby (s.onPlk fun p => { p with mode := .service })).1, (clearStandby (s.onPlk fun p =>
    { p with mode := .service })).2 ++ [.stuLower, .stuRise .base, .brcHeat])) [] = _
  rw [clearStandby_service]
  rfl

theorem phaseSet_grc (p : Phase) : (phaseSet p s).grc = s.grc := by
  by_cases hw : s.working = true
  · rw [phaseSet_of_working p hw]
    split
    · rfl
    · rw [setPump_frame]
      rfl
  · rw [phaseSet_of_inert p (Bool.eq_false_iff.mpr hw)]

/-- The channels after the service is left (R67, R200). -/
def serviceLeft (s : State) : State :=
  phaseSet .idle (((setGrinder false s).onDcu fun d =>
    { d with brewer := .stop, holds := HoldMarks.clear, serviceGrind := false }).onBrc fun b =>
    { b with move := none, position := s.positionNow })

theorem serviceLeft_eq : serviceLeft s = phaseSet .idle
    ((setGrinder false (moveOver s)).onDcu fun u => { u with holds := HoldMarks.clear, serviceGrind := false }) := by
  rw [serviceLeft, setGrinder_off, setGrinder_off]
  rfl

theorem serviceLeft_grc : (heatLoad (serviceLeft s)).grc = s.grc := by
  show (serviceLeft s).grc = s.grc
  rw [serviceLeft, phaseSet_grc]
  exact setGrinder_grc false s

/-- The wish of the service grind falls, whether it stood or not (R102). -/
theorem clearServiceWish_eq (u : State) : clearServiceWish u =
    (u.onGrc fun g => { g with serviceWish := false }, if u.grc.serviceWish then [.stuGrindWish false] else []) := by
  cases h : u.grc.serviceWish
  · rw [clearServiceWish_of_none h]
    refine Prod.ext ?_ rfl
    show u = { u with grc := { u.grc with serviceWish := false } }
    rw [← h]
  · exact clearServiceWish_of_wish h

theorem serviceLeave_eq : serviceLeave s =
    (phaseSet .idle (((heatLoad (serviceLeft s)).onGrc fun g => { g with serviceWish := false }).onPlk fun p => { p with mode := .serving }),
     (if s.grc.serviceWish then [.stuGrindWish false] else []) ++ [.stuLower, .stuRise .base, .brcHeat, .oruStart]) := by
  have hwish := clearServiceWish_eq (heatLoad (serviceLeft s))
  rw [serviceLeft_grc, serviceLeft_eq] at hwish
  rw [serviceLeft_eq]
  show ((enterMode .serving (clearServiceWish (heatLoad (phaseSet .idle _))).1).1, _ ++ _) = _
  rw [hwish]
  rfl

/-- Settles O56: the entry by what runs, the leave and the reset as one action each. -/
theorem serviceModeIsEnteredLeftAndReset : Obligations.ServiceModeIsEnteredLeftAndReset := by
  intro s hline answers
  have hrequest (kind length : Nat) (a : Admission) (owner : State → Answer) {b : Answer} (h : modeRefusal a s.plk.mode = none)
      (hb : owner s = b) : request kind length a owner s = placeReply (byteOf kind) (length + 3) b :=
    (request_of_listening hline kind length a owner).trans (by rw [h, ← hb]; rfl)
  have henter {b : Answer} (h : modeRefusal .enter s.plk.mode = none) (hb : answerServiceEnter s = b) :
      exec .serviceEnter s = .next (placeReply 11#8 3 b) := congrArg Host.Outcome.next (hrequest 11 0 .enter _ h hb)
  refine ⟨fun hmode => henter (by rw [hmode]; rfl) (if_pos hmode), fun hmode => ?_, fun hmode => ⟨?_, ?_⟩⟩
  · intro recovering
    have hserving : s.plk.mode ≠ .service := by rw [hmode]; decide
    have hadmitted : modeRefusal .enter s.plk.mode = none := by rw [hmode]; rfl
    exact ⟨fun hrunning => henter hadmitted ((if_neg hserving).trans (if_pos hrunning)),
      fun hrunning hstep => henter hadmitted
        ((if_neg hserving).trans ((if_neg (ne_true_of_eq_false hrunning)).trans (if_pos hstep))),
      fun hrunning hstep hunit => henter hadmitted ((if_neg hserving).trans ((if_neg (ne_true_of_eq_false hrunning)).trans
        ((if_neg (ne_true_of_eq_false hstep)).trans (if_pos hunit)))),
      fun hrunning hstep hunit => henter hadmitted (answerServiceEnter_of_free hserving hrunning hstep hunit)⟩
  · intro u v
    refine congrArg Host.Outcome.next (hrequest 12 0 .service answerServiceLeave (by rw [hmode]; rfl) ?_)
    rw [answerServiceLeave, serviceLeave_eq]
    rfl
  · intro stuck overheat cleared t
    exact congrArg Host.Outcome.next (hrequest 13 0 .service answerServiceReset (by rw [hmode]; rfl) rfl)

/-! ### Messages of requests -/

theorem sumBytes_append_check (bytes : List Byte) : sumBytes (bytes ++ [zeroSumCheck bytes]) = 0#8 := by
  rw [sumBytes, List.foldl_append]
  show sumBytes bytes + (0#8 - sumBytes bytes) = 0#8
  bv_omega

theorem requestMessage_length (kind : Nat) (body : List Byte) : (requestMessage kind body).length = body.length + 3 := by
  simp [requestMessage]

/-- A message of at most 255 body bytes passes the first test of R192. -/
theorem checkedRequest_message {kind : Nat} {body : List Byte} (h : body.length < 256) : checkedRequest (requestMessage kind body) = true := by
  have hstated : ((requestMessage kind body).getD 1 0#8).toNat = body.length := by
    show (byteOf body.length).toNat = _
    simp [byteOf, Nat.mod_eq_of_lt h]
  have hsum : sumBytes (requestMessage kind body) = 0#8 := sumBytes_append_check _
  simp only [checkedRequest, hstated, requestMessage_length, hsum, beq_self_eq_true, Bool.and_true, decide_eq_true_eq]
  omega

theorem message_body (kind : Nat) (body : List Byte) : ((requestMessage kind body).drop 2).dropLast = body := by
  show (body ++ [_]).dropLast = body
  exact List.dropLast_concat

theorem panelTransfer_of_request {kind : Nat} {body : List Byte} (hline : s.pins.resetAsserted = false) (hkind : kind < 256)
    (hread : kind ≠ 2) (hlength : requestBodyLength kind = some body.length) (hbody : body.length < 256) :
    panelTransfer (requestMessage kind body) s = requestOf kind body s := by
  have hcode : (byteOf kind).toNat = kind := by simp [byteOf, Nat.mod_eq_of_lt hkind]
  have hfirst : (requestMessage kind body).getD 0 0#8 = byteOf kind := rfl
  have hsecond : ((requestMessage kind body).getD 1 0#8).toNat = body.length := by
    show (byteOf body.length).toNat = _
    simp [byteOf, Nat.mod_eq_of_lt hbody]
  have hnot : byteOf kind ≠ 2#8 := fun h => hread (by rw [← hcode, h]; rfl)
  refine (if_neg (by simp [hline, requestMessage])).trans ?_
  simp only [hfirst, hsecond, hcode, hnot, if_false, checkedRequest_message hbody, Bool.not_true, Bool.false_eq_true, hlength,
    ne_eq, not_true_eq_false, message_body]

theorem numberOf_field2 {n : Nat} (h : n < 65536) : (byteOf (n / 256)).toNat * 256 + (byteOf n).toNat = n := by
  simp only [byteOf, BitVec.toNat_ofNat]
  omega

/-- A request given by its bytes is the request (R192). -/
theorem requestOf_panelRequest {c : Instr} {kind : Nat} {body : List Byte} (hwf : c.wf = true) (h : panelRequest c = some (kind, body))
    (s : State) : exec c s = .next (requestOf kind body s) ∧ kind < 256 ∧ kind ≠ 2 ∧ requestBodyLength kind = some body.length
      ∧ body.length < 256 := by
  cases c with
  | logAck n =>
    cases h
    have hn : n < 65536 := by simpa [Instr.wf, isHalfword] using hwf
    refine ⟨?_, by decide, by decide, rfl, by simp⟩
    have hnumber : ((field2 n).getD 0 0#8).toNat * 256 + ((field2 n).getD 1 0#8).toNat = n := by
      rw [field2, if_pos hn]
      exact numberOf_field2 hn
    show _ = Host.Outcome.next (reqLogAck (((field2 n).getD 0 0#8).toNat * 256 + ((field2 n).getD 1 0#8).toNat) s)
    rw [hnumber]
    rfl
  | status | noticeRead | logRead | cleanCancel | promptDone | serviceEnter | serviceLeave | serviceReset | partId =>
    cases h
    exact ⟨rfl, by decide, by decide, rfl, by decide⟩
  | order _ _ _ _ | cancel _ | cleanRequest _ | serviceDrive _ _ =>
    cases h
    exact ⟨rfl, by decide, by decide, rfl, by simp⟩
  | _ => cases h

/-- Settles O57: a transfer by its bytes; a whole request is the request, a READ_REPLY is one. -/
theorem panelTransfersAreJudged : Obligations.PanelTransfersAreJudged := by
  intro s bytes
  refine ⟨fun h => congrArg Host.Outcome.next (if_pos ?_), fun hline kind rest hbytes hkind => ?_, fun c kind body hwf hrequest => ?_,
    fun length check after => ?_⟩
  · rcases h with h | h <;> simp [h]
  · intro refused
    have hfirst : bytes.getD 0 0#8 = kind := by rw [hbytes]; rfl
    have hjudged : panelTransfer bytes s =
        if !checkedRequest bytes then placeReply kind bytes.length (refuse .badCheck s)
        else if requestBodyLength kind.toNat ≠ some (bytes.getD 1 0#8).toNat then placeReply kind bytes.length (refuse .badRequest s)
        else requestOf kind.toNat ((bytes.drop 2).dropLast) s := by
      refine (if_neg (by simp [hline, hbytes])).trans ?_
      rw [hfirst]
      exact if_neg hkind
    refine ⟨fun hbad => congrArg Host.Outcome.next (hjudged.trans (if_pos (by rw [hbad]; rfl))),
      fun hgood hlength => congrArg Host.Outcome.next (hjudged.trans ((if_neg (by rw [hgood]; decide)).trans (if_pos hlength)))⟩
  · obtain ⟨hexec, hkind, hread, hlength, hbody⟩ := requestOf_panelRequest hwf hrequest s
    by_cases hline : s.pins.resetAsserted = true
    · obtain ⟨owner, howner, _⟩ := exec_of_panelRequest hrequest s
      rw [howner]
      refine congrArg Host.Outcome.next (Eq.trans (if_pos ?_) (if_pos hline).symm)
      simp [hline]
    · rw [hexec]
      exact congrArg Host.Outcome.next (panelTransfer_of_request (Bool.eq_false_iff.mpr hline) hkind hread hlength hbody)
  · refine congrArg Host.Outcome.next ?_
    by_cases hline : s.pins.resetAsserted = true
    · exact (if_pos (by simp [hline])).trans (if_pos hline).symm
    · refine (if_neg (by simp [hline])).trans ?_
      refine (if_pos rfl).trans ((if_neg (by simp)).trans ?_)
      simp

end Sys2Proof.Proofs
end

section
/-! ## The handover of a warm reset (R138, R161, R170, R203) -/

namespace Sys2Proof.Proofs

open Sys2Proof Sys2Proof.Machine

variable {s t u : State} {p : Payment}

/-- What an entry of the handover says, without its number, its time and its epoch. -/
abbrev EntryFields : Type := LogKind × Badge × Nat × Option Nat × Option Nat

def entryFields (e : LogEntry) : EntryFields := (e.kind, e.badge, e.amount, e.order, e.credit)

/-- The state with entries placed in the log and a refund list (R159, R164). -/
def placed (new : List LogEntry) (refunds : List Refund) (s : State) : State :=
  { s with
    plg := { s.plg with
      log := s.plg.log ++ new, nextSeq := (s.plg.nextSeq + new.length) % 65536 }
    pyu := { s.pyu with
      refunds := refunds } }

/-- `t` is `s` with entries of these fields placed, of the time and the epoch of `s`, and with this refund list. -/
def HandedOver (fields : List EntryFields) (refunds : List Refund) (s t : State) : Prop :=
  ∃ new : List LogEntry, t = placed new refunds s ∧ new.map entryFields = fields
    ∧ ∀ e ∈ new, e.time = s.seconds ∧ e.epoch = s.plg.epoch

theorem handedOver_refl (h : s.plg.nextSeq < 65536) : HandedOver [] s.pyu.refunds s s := by
  refine ⟨[], ?_, rfl, by simp⟩
  simp [placed, Nat.mod_eq_of_lt h]

theorem handedOver_trans {first second : List EntryFields} {before after : List Refund} (h : HandedOver first before s t)
    (h' : HandedOver second after t u) : HandedOver (first ++ second) after s u := by
  obtain ⟨new, rfl, hfields, hnew⟩ := h
  obtain ⟨more, rfl, hfields', hmore⟩ := h'
  refine ⟨new ++ more, ?_, by rw [List.map_append, hfields, hfields'], fun e he => ?_⟩
  · simp [placed, Nat.add_assoc]
  · exact (List.mem_append.mp he).elim (hnew e) (hmore e)

theorem handedOver_placeEntry (kind badge amount order recipe mode credit unlisted) (s : State) :
    HandedOver [(kind, badge, amount, order, credit)] s.pyu.refunds s
      (placeEntry kind badge amount order recipe mode credit unlisted s) :=
  ⟨[_], rfl, rfl, fun e he => by rw [List.mem_singleton.mp he]; exact ⟨rfl, rfl⟩⟩

theorem handedOver_handoverRefundDue (badge : Badge) (amount order : Nat) (s : State) :
    HandedOver [(.refundDue, badge, amount, some order, none)] (addDue s.pyu.refunds badge amount s.timeBase) s
      (handoverRefundDue badge amount order s) :=
  ⟨[_], rfl, rfl, fun e he => by rw [List.mem_singleton.mp he]; exact ⟨rfl, rfl⟩⟩

/-- The debited orders of a queue. -/
def debitedOf (l : List Order) : List Order := l.filter fun o => o.debitSeq.isSome

theorem handedOver_handoverOrders (l : List Order) : ∀ {s : State}, s.plg.nextSeq < 65536 →
    HandedOver ((debitedOf l).map fun o => (LogKind.refundDue, o.badge.getD 0#32, o.price, some o.number, none))
      ((debitedOf l).foldl (fun l o => addDue l (o.badge.getD 0#32) o.price s.timeBase) s.pyu.refunds) s (handoverOrders l s) := by
  induction l with
  | nil => exact fun h => handedOver_refl h
  | cons o rest ih =>
    intro s h
    show HandedOver _ _ _ (handoverOrders rest (if o.debitSeq.isSome then _ else s))
    by_cases hdebit : o.debitSeq.isSome = true
    · rw [if_pos hdebit, debitedOf, List.filter_cons_of_pos (by exact hdebit)]
      exact handedOver_trans (handedOver_handoverRefundDue _ _ _ s) (ih (Nat.mod_lt _ (by decide)))
    · rw [if_neg hdebit, debitedOf, List.filter_cons_of_neg (by exact hdebit)]
      exact ih h

/-- The entry of a write that may have happened (R161). -/
def unresolvedFields (payment : Option Payment) : List EntryFields :=
  match payment with
  | some p => if p.state = .writing ∨ p.state = .verify
      then [(LogKind.unresolved, p.badge, orZero (p.order.map Prod.snd), payOrder p, p.refundUsed)] else []
  | none => []

theorem handedOver_handoverPayment (h : s.plg.nextSeq < 65536) :
    HandedOver (unresolvedFields s.pyu.payment) s.pyu.refunds s (handoverPayment s) := by
  unfold handoverPayment unresolvedFields
  cases s.pyu.payment with
  | none => exact handedOver_refl h
  | some p =>
    by_cases hwrite : p.state = .writing ∨ p.state = .verify
    · simp only [if_pos hwrite]
      exact handedOver_placeEntry _ _ _ _ _ _ _ _ s
    · simp only [if_neg hwrite]
      exact handedOver_refl h

/-- The refund list and the entries after the handover of the open money. -/
theorem handedOver_money (h : s.plg.nextSeq < 65536) : HandedOver
    (((debitedOf s.oru.queue).map fun o => (LogKind.refundDue, o.badge.getD 0#32, o.price, some o.number, none))
      ++ unresolvedFields s.pyu.payment)
    ((debitedOf s.oru.queue).foldl (fun l o => addDue l (o.badge.getD 0#32) o.price s.timeBase) s.pyu.refunds) s
    (handoverPayment (handoverOrders s.oru.queue s)) := by
  have horders := handedOver_handoverOrders s.oru.queue h
  obtain ⟨new, hplaced, _⟩ := id horders
  rw [hplaced] at horders ⊢
  exact handedOver_trans horders (handedOver_handoverPayment (s := placed new _ s) (Nat.mod_lt _ (by decide)))

theorem handoverPuck_eq (s : State) : handoverPuck s = s.onBrc fun b => { b with
    retained := b.retained || s.cupRun.any CupRun.grounds, pucks := b.pucks + flagCode (s.cupRun.any CupRun.grounds) } := by
  unfold handoverPuck
  cases h : s.cupRun.any CupRun.grounds <;> simp [flagCode, State.onBrc]

/-- The part with its drive channels at their stop levels, which a part with no configuration has not (R64; log 13). -/
def levelsStopped (s : State) : State := if s.cfl.loaded.isSome then stopLevels s else s

theorem levelsStopped_keeps (s : State) : ∃ (d : Dcu) (grind flow : Monitor), levelsStopped s = { s with
      dcu := d
      cnu := { s.cnu with
        grind := { s.cnu.grind with monitor := grind }, flow := { s.cnu.flow with monitor := flow } } }
    ∧ warmDcu d = { Dcu.reset with
      valveBrew := if s.cfl.loaded.isSome then stopValve s.conf.stopBrew s.dcu.valveBrew else s.dcu.valveBrew,
      valveDrain := if s.cfl.loaded.isSome then stopValve s.conf.stopDrain s.dcu.valveDrain else s.dcu.valveDrain,
      valveRinse := if s.cfl.loaded.isSome then stopValve s.conf.stopRinse s.dcu.valveRinse else s.dcu.valveRinse } := by
  unfold levelsStopped
  cases s.cfl.loaded.isSome
  · exact ⟨s.dcu, s.cnu.grind.monitor, s.cnu.flow.monitor, rfl, rfl⟩
  · refine ⟨(stopLevels s).dcu, (stopLevels s).cnu.grind.monitor, (stopLevels s).cnu.flow.monitor, ?_, ?_⟩
    · rw [if_pos rfl, stopLevels_eq]
      by_cases hg : s.dcu.grinder = true <;> by_cases hp : s.dcu.pump = 0 <;> simp [hg, hp]
    · rw [stopLevels_eq]
      rfl

theorem warmReset_eq (s : State) : warmReset s = { warmBlocks (freeRefunds (handoverPuck (handoverPayment
    (handoverOrders (levelsStopped s).oru.queue (levelsStopped s))))) with
      cfl := { s.cfl with loaded := none, reading := .none }
      pins := { s.pins with resetAsserted := true } } := rfl

/-- Settles O7: the entries of the handover are placed, then every block takes its warm-reset value. -/
theorem warmResetHandsOverTheMoney : Obligations.WarmResetHandsOverTheMoney := by
  intro s hline hretain hnumbered
  have hassert : exec (.resetNAssert true) s = .next (warmReset s) :=
    congrArg Host.Outcome.next ((if_neg (ne_true_of_eq_false hline)).trans (if_pos (by rw [hretain]; rfl)))
  obtain ⟨d, grind, flow, hstopped, hdcu⟩ := levelsStopped_keeps s
  have hmoney := handedOver_money (s := levelsStopped s) (by rw [hstopped]; exact hnumbered.log)
  obtain ⟨new, hplaced, hfields, hnew⟩ := hmoney
  rw [warmReset_eq, hplaced, handoverPuck_eq, hstopped] at hassert
  rw [hstopped] at hfields hnew
  exact ⟨_, new, hassert, rfl, hfields, hnew, rfl, rfl, rfl, rfl, hdcu, rfl, rfl, rfl, rfl, rfl, rfl, rfl, rfl, rfl⟩

end Sys2Proof.Proofs
end

section
/-! ## Reads of the configuration image (R204 to R206) -/

namespace Sys2Proof.Proofs

open Sys2Proof Sys2Proof.Machine

variable {s : State} {image : List Byte} {c : Cfg}

/-! ### A read that is made again, and one that halts the station -/

theorem configRead_of_none (h : s.cfl.reading = .none ∨ s.pins.resetAsserted = true) : configRead image s = s := by
  unfold configRead
  by_cases hline : s.pins.resetAsserted = true
  · exact if_pos hline
  · rw [if_neg hline, h.resolve_right hline]

theorem configRead_first (hline : s.pins.resetAsserted = false) (hreading : s.cfl.reading = .first) (htest : imageTest image ≠ .ok) :
    configRead image s = { s with cfl := { s.cfl with reading := .second } } := by
  unfold configRead
  rw [if_neg (ne_true_of_eq_false hline), hreading]
  cases h : imageTest image with
  | ok => exact absurd h htest
  | blank | check | version | range => rfl

theorem configRead_second (hline : s.pins.resetAsserted = false) (hreading : s.cfl.reading = .second) (htest : imageTest image ≠ .ok) :
    configRead image s = loadFail (imageTest image) s := by
  unfold configRead
  rw [if_neg (ne_true_of_eq_false hline), hreading]
  cases h : imageTest image with
  | ok => exact absurd h htest
  | blank | check | version | range => rfl

theorem configRead_ok (hline : s.pins.resetAsserted = false) (hreading : s.cfl.reading ≠ .none) (htest : imageTest image = .ok) :
    configRead image s = loadOk (cfgOf (imageAt image)) s := by
  unfold configRead
  rw [if_neg (ne_true_of_eq_false hline), htest]
  cases h : s.cfl.reading with
  | none => exact absurd h hreading
  | first | second => rfl

/-- At a failed load the channels stand at their stop levels already; the valves close (R64, R206). -/
theorem loadFail_of_inert (h : Inert s) (hreading : s.cfl.reading ≠ .none) (r : LoadResult) : loadFail r s = { s with
    cfl := { s.cfl with reading := .none, result := r }
    plk := { s.plk with mode := .halted }
    dcu := { s.dcu with
      valveBrew := false, valveDrain := false, valveRinse := false, holds := HoldMarks.clear, serviceGrind := false,
      pumpPeriod := 0 } } := by
  obtain ⟨hloaded, _⟩ := h.starting (.inl hreading)
  obtain ⟨hheater, hpump, hgrinder, hbrewer, _, _⟩ := h.parked (by simp [State.working, hloaded])
  simp only [loadFail, stopLevels_eq, State.conf, hloaded, hheater, hpump, hgrinder, hbrewer, Option.getD_none, Bool.false_eq_true,
    if_true, if_false] <;> rfl

/-! ### A load -/

/-- The BRC with the switches and the drawer read (R116, R121, R205). -/
def loadedBrc (cold : Bool) (s : State) : Brc :=
  { s.brc with
    position := s.positionNow, retained := if cold then s.positionNow != .top else s.brc.retained,
    pucks := if cold then flagCode (s.positionNow != .top) else s.brc.pucks,
    drawerLimit := max s.conf.drawerLimit (if cold then flagCode (s.positionNow != .top) else s.brc.pucks),
    drawerIn := s.pins.drawerIn }

theorem loadBrewer_eq (cold : Bool) (s : State) : loadBrewer cold s =
    if s.conf.drawerLimit < (loadedBrc cold s).pucks
    then postNotice .drawerFull none (loadedBrc cold s).pucks 0 0 { s with brc := loadedBrc cold s }
    else { s with brc := loadedBrc cold s } := by
  cases cold <;> rfl

theorem loadBrewer_brc (cold : Bool) (s : State) : (loadBrewer cold s).brc = loadedBrc cold s := by
  rw [loadBrewer_eq]
  split
  · simp only [postNotice]
    (repeat' split) <;> rfl
  · rfl

theorem quiet_loadBrewer (cold : Bool) (s : State) : (loadBrewer cold s).quiet = { s.quiet with
    drawerLimit := max s.conf.drawerLimit (if cold then flagCode (s.positionNow != .top) else s.brc.pucks)
    drawerIn := s.pins.drawerIn } := by
  rw [loadBrewer_eq]
  split
  · exact quiet_postNotice _ _ _ _ _
  · rfl

theorem quiet_overheatLatch (s : State) : (overheatLatch s).1.quiet = s.quiet := rfl

theorem quiet_loadLatches (s : State) : (loadLatches s).1.quiet = s.quiet := by
  have hstuck : (if (s.pins.brTop && s.pins.brBot) = true then stuckLatch 2 s else (s, [])).1.quiet = s.quiet := by
    split
    · exact quiet_stuckLatch 2
    · rfl
  by_cases hheat : s.pins.boilOvht = true <;> simp only [loadLatches, hheat] <;> exact hstuck

theorem quiet_dueIf (p : Prop) [Decidable p] (k : CleanKind) (s : State) : (if p then setDue k s else s).quiet = s.quiet := by
  split
  · exact quiet_setDue k
  · rfl

theorem quiet_loadDue (s : State) : (loadDue s).quiet = s.quiet :=
  (quiet_dueIf _ _ _).trans ((quiet_dueIf _ _ _).trans (quiet_dueIf _ _ _))

theorem quiet_loadWatermark (s : State) : (loadWatermark s).quiet = s.quiet := by
  unfold loadWatermark
  split <;> simp

theorem quiet_enterServing (s : State) : (enterMode .serving s).1.quiet = { s.quiet with mode := .serving } :=
  quiet_phaseSet .idle

/-- The STU of a state marked stale (R43). -/
def staledStu (full : Bool) (s : State) : Stu :=
  { s.stu with
    stale := true, staleClearTime := s.timeBase + s.conf.leaseS * 1000, awaited := s.peers.map (·.1),
    fullLease := s.stu.fullLease || full,
    table := s.stu.table.map fun e => if e.live then { e with heardSinceStale := false } else e }

@[simp] theorem offerFrame_brc (o : Offer) (s : State) : (offerFrame o s).brc = s.brc := by
  simp only [offerFrame, postNotice]
  (repeat' split) <;> rfl

/-- A mark as stale leaves its writes in the STU, and an offer. -/
theorem staleMark_cases (full : Bool) (s : State) : staleMark full s = { s with stu := staledStu full s }
    ∨ staleMark full s = offerFrame .join { s with stu := staledStu full s } := by
  rw [staleMark_eq]
  dsimp only
  split
  · exact .inl rfl
  · exact .inr rfl

theorem quiet_staleMark (full : Bool) (s : State) : (staleMark full s).quiet = { s with stu := staledStu full s }.quiet := by
  rcases staleMark_cases full s with h | h
  · rw [h]
  · rw [h, quiet_offerFrame]

theorem staleMark_brc (full : Bool) (s : State) : (staleMark full s).brc = s.brc := by
  rcases staleMark_cases full s with h | h
  · rw [h]
  · rw [h, offerFrame_brc]

/-- The line and the counters as a load writes them, before the mark as stale (R22, R27, R29, R41, R47, R84). -/
def lineLoaded (c : Cfg) (s : State) : State :=
  let rate := fun (initial : Nat) (k : Counter) => if s.cfl.coldStart then { k with rate := max 1 initial } else k
  { s with
    cfl := { s.cfl with
      loaded := some c, result := .ok, reading := .none, coldStart := false }
    lau := { s.lau with
      receiver := .hunt, idleTimer := 0 }
    stu := { s.stu with
      effBudget := c.budget, effCleanLimit := c.cleanLimit, lastClaimPosted := s.timeBase, lastRenewalDue := s.timeBase,
      lineState := .joining }
    cnu := { s.cnu with
      grind := rate c.initialGrindRate s.cnu.grind, flow := rate c.initialFlowRate s.cnu.flow } }

theorem loadLine_eq (c : Cfg) (s : State) : loadLine c s = staleMark true (lineLoaded c s) := rfl

theorem loadOk_quiet (c : Cfg) (s : State) : (loadOk c s).quiet =
    { (staleMark true (lineLoaded c s)).quiet with
      drawerLimit := max (loadLine c s).conf.drawerLimit
        (if s.cfl.coldStart then flagCode ((loadLine c s).positionNow != .top) else (loadLine c s).brc.pucks)
      drawerIn := (loadLine c s).pins.drawerIn, reader := .gap s.units, mode := .serving } := by
  have hreader (u : State) : (u.onPyu fun p => { p with reader := .gap s.units }).quiet = { u.quiet with reader := .gap s.units } := rfl
  rw [loadOk, quiet_react, quiet_enterServing, hreader, quiet_loadWatermark, quiet_loadDue, quiet_runActs, quiet_loadLatches,
    quiet_loadBrewer, loadLine_eq]

/-- What a load leaves of the parts that no report of its action reaches (R205). -/
theorem loadOk_loaded (c : Cfg) (s : State) : (loadOk c s).quiet =
    { ({ lineLoaded c s with stu := staledStu true (lineLoaded c s) } : State).quiet with
      drawerLimit := max c.drawerLimit (if s.cfl.coldStart then flagCode (s.positionNow != .top) else s.brc.pucks)
      drawerIn := s.pins.drawerIn, reader := .gap s.units, mode := .serving } := by
  have hquiet := quiet_staleMark true (lineLoaded c s)
  have hpins : (loadLine c s).pins = s.pins := congrArg Quiet.pins hquiet
  have hcfl : (loadLine c s).cfl = (lineLoaded c s).cfl := congrArg Quiet.cfl hquiet
  have hbrc : (loadLine c s).brc = s.brc := staleMark_brc true (lineLoaded c s)
  have hposition : (loadLine c s).positionNow = s.positionNow := by simp only [State.positionNow, hpins]
  rw [loadOk_quiet, hquiet, State.conf, hpins, hcfl, hbrc, hposition]
  rfl

theorem cSelLine_iff : s.cSelLine = true ↔ s.cfl.reading ≠ .none ∧ s.pins.resetAsserted = false := by
  simp [State.cSelLine]

/-- Settles O8: the reads by their outcome, and a load by what its action leaves. -/
theorem configurationReadsLoadOrHalt : Obligations.ConfigurationReadsLoadOrHalt := by
  intro image s
  refine ⟨fun hinert htest => ⟨fun hreading hline => congrArg Host.Outcome.next (configRead_first hline hreading htest),
      fun hreading hline => congrArg Host.Outcome.next ?_⟩,
    fun h => congrArg Host.Outcome.next (configRead_of_none h), fun htest hreading hline => ?_, fun cold => ?_, cSelLine_iff,
    fun h => if_pos h⟩
  · rw [configRead_second hline hreading htest]
    exact loadFail_of_inert hinert (by rw [hreading]; decide) _
  · intro c
    have hquiet := loadOk_loaded c s
    refine ⟨loadOk c s, congrArg Host.Outcome.next (configRead_ok hline hreading htest), congrArg Quiet.cfl hquiet,
      congrArg Quiet.mode hquiet, congrArg Quiet.receiver hquiet, congrArg Quiet.reader hquiet, congrArg Quiet.lineState hquiet,
      congrArg Quiet.effBudget hquiet, congrArg Quiet.effCleanLimit hquiet, congrArg Quiet.lastClaimPosted hquiet,
      congrArg Quiet.stale hquiet, ?_, congrArg Quiet.staleClearTime hquiet, congrArg Quiet.drawerLimit hquiet,
      congrArg Quiet.drawerIn hquiet, congrArg Quiet.timeBase hquiet, congrArg Quiet.pins hquiet, congrArg Quiet.reply hquiet,
      congrArg Quiet.epoch hquiet⟩
    exact (congrArg Quiet.fullLease hquiet).trans (Bool.or_true _)
  · intro b
    have hb : b = _ := loadBrewer_brc cold s
    rw [hb]
    exact ⟨rfl, rfl, rfl, rfl⟩

end Sys2Proof.Proofs
end

section
/-! ## Frames on the line (R1 to R10, R207) -/

namespace Sys2Proof.Proofs

open Sys2Proof Sys2Proof.Machine

variable {s t : State} {f : Frame} {n i k : Nat} {b : Byte} {bytes rest : List Byte}

/-! ### Bits of characters -/

theorem charBits_length (flag : Bool) (b : Byte) : (charBits flag b).length = 11 := by simp [charBits]

theorem charBits_start (flag : Bool) (b : Byte) : (charBits flag b)[0]? = some false := rfl

theorem charBits_data (flag : Bool) (b : Byte) (h : i < 8) : (charBits flag b)[1 + i]? = some (b.getLsbD i) := by
  rw [charBits, Nat.add_comm, List.cons_append, List.getElem?_cons_succ, List.getElem?_append_left (by simpa using h)]
  simp [h]

theorem charBits_flag (flag : Bool) (b : Byte) : (charBits flag b)[9]? = some flag := rfl

theorem charBits_stop (flag : Bool) (b : Byte) : (charBits flag b)[10]? = some true := rfl

/-- The bits of the characters after the header. -/
theorem restBits_length (rest : List Byte) : (rest.flatMap (charBits false)).length = 11 * rest.length := by
  induction rest with
  | nil => rfl
  | cons b rest ih =>
    rw [List.flatMap_cons, List.length_append, ih, charBits_length, List.length_cons]
    omega

theorem restBits_getElem? (h : i < 11) (hk : rest[k]? = some b) :
    (rest.flatMap (charBits false))[11 * k + i]? = (charBits false b)[i]? := by
  induction rest generalizing k with
  | nil => simp at hk
  | cons c rest ih =>
    rw [List.flatMap_cons]
    cases k with
    | zero =>
      obtain rfl : c = b := by simpa using hk
      rw [Nat.mul_zero, Nat.zero_add, List.getElem?_append_left (by rw [charBits_length]; exact h)]
    | succ k =>
      rw [List.getElem?_append_right (by rw [charBits_length]; omega), charBits_length,
        show 11 * (k + 1) + i - 11 = 11 * k + i by omega]
      exact ih (by simpa using hk)

/-- The bits of the characters of a frame, the header with its flag (R3). -/
theorem characterBits_getElem? {header : Byte} (h : i < 11) (hk : (header :: rest)[k]? = some b) :
    (charBits true header ++ rest.flatMap (charBits false))[11 * k + i]? = (charBits (decide (k = 0)) b)[i]? := by
  cases k with
  | zero =>
    obtain rfl : header = b := by simpa using hk
    rw [Nat.mul_zero, Nat.zero_add, List.getElem?_append_left (by rw [charBits_length]; exact h)]
    rfl
  | succ k =>
    rw [List.getElem?_append_right (by rw [charBits_length]; omega), charBits_length,
      show 11 * (k + 1) + i - 11 = 11 * k + i by omega]
    exact restBits_getElem? h (by simpa using hk)

/-! ### Bits of frames -/

/-- The break of 14 bt low and 2 bt high that begins every frame (R3). -/
def breakBits : List Bool := List.replicate 14 false ++ List.replicate 2 true

theorem frameBytes_eq (n : Nat) (f : Frame) : ∃ header rest, frameBytes n f = header :: rest
    ∧ frameBits n f = breakBits ++ (charBits true header ++ rest.flatMap (charBits false)) := ⟨_, _, rfl, rfl⟩

theorem frameBits_length (n : Nat) (f : Frame) : (frameBits n f).length = 16 + 11 * (frameBytes n f).length := by
  obtain ⟨header, rest, hbytes, hbits⟩ := frameBytes_eq n f
  rw [hbits, hbytes, List.length_append, List.length_append, charBits_length, restBits_length, List.length_cons,
    show breakBits.length = 16 from rfl]
  omega

theorem frameBits_break (n : Nat) (f : Frame) (h : i < 16) : (frameBits n f)[i]? = some (decide (14 ≤ i)) := by
  have hbreak : ∀ i, i < 16 → breakBits[i]? = some (decide (14 ≤ i)) := by decide
  obtain ⟨header, rest, _, hbits⟩ := frameBytes_eq n f
  rw [hbits, List.getElem?_append_left h, hbreak i h]

theorem frameBits_character (h : i < 11) (hk : (frameBytes n f)[k]? = some b) :
    (frameBits n f)[16 + 11 * k + i]? = (charBits (decide (k = 0)) b)[i]? := by
  obtain ⟨header, rest, hbytes, hbits⟩ := frameBytes_eq n f
  rw [hbytes] at hk
  rw [hbits, List.getElem?_append_right (by show 16 ≤ _; omega), show breakBits.length = 16 from rfl,
    show 16 + 11 * k + i - 16 = 11 * k + i by omega, characterBits_getElem? h hk]

/-! ### Levels of the line -/

theorem slDeLine_of_sent (h : (s.lau.queue.findSome? TxSlot.sent).map Sent.frame = some f) :
    s.slDeLine = ((frameBits s.conf.station f)[s.lau.txBit]? == some false) := by
  obtain ⟨sent, hsent, rfl⟩ := Option.map_eq_some_iff.mp h
  rw [State.slDeLine, State.sentBit, hsent]
  rfl

theorem slDeLine_of_silent (h : s.transmitting = false) : s.slDeLine = false := by
  have hnone : s.lau.queue.findSome? TxSlot.sent = none := List.findSome?_eq_none_iff.mpr (transmitting_eq_false_iff.mp h)
  rw [State.slDeLine, State.sentBit, hnone]
  rfl

/-! ### Bodies and the frames they spell (R4, R207) -/

theorem frameBody_length (f : Frame) : (frameBody f).length = frameKindLength (frameKind f) := by
  cases f <;> rfl

theorem toNat_byteOf (n : Nat) : (byteOf n).toNat = n % 256 := by simp [byteOf]

theorem map_field1 (h : isByte n = true) : (field1 n).map BitVec.toNat = [n] := by
  have hn : n < 256 := by simpa [isByte] using h
  simp [field1, hn, toNat_byteOf, Nat.mod_eq_of_lt hn]

theorem map_badgeBytes (x : Badge) : (badgeBytes x).map BitVec.toNat =
    [x.toNat / 16777216 % 256, x.toNat / 65536 % 256, x.toNat / 256 % 256, x.toNat % 256] := by
  have hx : x.toNat < 4294967296 := x.isLt
  simp [badgeBytes, field4, hx, toNat_byteOf]

theorem badge_of_bytes (x : Badge) : BitVec.ofNat 32 (((x.toNat / 16777216 % 256 * 256 + x.toNat / 65536 % 256) * 256
    + x.toNat / 256 % 256) * 256 + x.toNat % 256) = x := by
  have hx : x.toNat < 4294967296 := x.isLt
  refine (congrArg (BitVec.ofNat 32) (?_ : _ = x.toNat)).trans (by simp)
  omega

theorem heatCode_lt (h : HeatLevel) : heatCode h < 4 := by cases h <;> decide
theorem cleanStateCode_lt (c : CleanState) : cleanStateCode c < 4 := by cases c <;> decide
theorem heatLevelOfCode_heatCode (h : HeatLevel) : heatLevelOfCode (heatCode h) = h := by cases h <;> rfl
theorem cleanStateOfCode_cleanStateCode (c : CleanState) : cleanStateOfCode (cleanStateCode c) = c := by cases c <;> rfl

/-- The fields of the state byte of a CLAIM (R4). -/
theorem claimStateByte_fields (c : ClaimBody) : claimStateByte c / 32 = 0 ∧ (claimStateByte c % 2 == 1) = c.raise
    ∧ claimStateByte c / 2 % 4 = heatCode c.heat ∧ claimStateByte c / 8 % 4 = cleanStateCode c.clean := by
  have hheat := heatCode_lt c.heat
  have hclean := cleanStateCode_lt c.clean
  have hbit : flagCode c.raise < 2 ∧ (flagCode c.raise == 1) = c.raise := by cases c.raise <;> decide
  unfold claimStateByte
  refine ⟨by omega, ?_, by omega, by omega⟩
  rw [show (flagCode c.raise + 2 * heatCode c.heat + 8 * cleanStateCode c.clean) % 2 = flagCode c.raise by omega]
  exact hbit.2

theorem claimStateByte_isByte (c : ClaimBody) : isByte (claimStateByte c) = true := by
  obtain ⟨hhigh, _⟩ := claimStateByte_fields c
  simp only [isByte, decide_eq_true_eq]
  omega

/-- A body spells its frame, every field at every value. -/
theorem frameOfBody_frameBody (h : f.wf = true) : frameOfBody (frameKind f) (frameBody f) = some f := by
  cases f with
  | join j =>
    simp only [Frame.wf, Bool.and_eq_true] at h
    obtain ⟨⟨hbudget, hlimit⟩, hlease⟩ := h
    simp [frameOfBody, frameKind, frameBody, map_field1, hbudget, hlimit, hlease]
  | claim c =>
    simp only [Frame.wf, Bool.and_eq_true] at h
    obtain ⟨⟨⟨hseq, hheat⟩, hother⟩, hlease⟩ := h
    obtain ⟨hhigh, hraise, hlevel, hclean⟩ := claimStateByte_fields c
    simp [frameOfBody, frameKind, frameBody, map_field1, hseq, claimStateByte_isByte, hheat, hother, hlease, hhigh, hraise, hlevel,
      hclean, heatLevelOfCode_heatCode, cleanStateOfCode_cleanStateCode]
  | hold d =>
    simp only [Frame.wf, Bool.and_eq_true] at h
    obtain ⟨hseq, hlease⟩ := h
    have haction : isByte (if d.take then 1 else 2) = true := by cases d.take <;> rfl
    have htake : ((if d.take then 1 else 2) = 1 ∨ (if d.take then 1 else 2) = 2)
        ∧ ((if d.take then 1 else 2 : Nat) == 1) = d.take := by cases d.take <;> decide
    simp only [frameOfBody, frameKind, frameBody, List.map_append, map_field1 hseq, map_field1 haction, map_badgeBytes,
      map_field1 hlease, List.cons_append, List.nil_append, badge_of_bytes, htake.2]
    exact if_pos htake.1
  | need d =>
    simp only [Frame.wf, Bool.and_eq_true, decide_eq_true_eq] at h
    obtain ⟨⟨⟨hseq, hunits⟩, hpositive⟩, htime⟩ := h
    simp [frameOfBody, frameKind, frameBody, map_field1, hseq, hunits, htime, Nat.ne_of_gt hpositive]
  | dispute d =>
    simp only [Frame.wf, Bool.and_eq_true, decide_eq_true_eq] at h
    obtain ⟨⟨⟨hseq, htarget⟩, hpositive⟩, htargetSeq⟩ := h
    have hreason : isByte (disputeReasonCode d.reason) = true := by cases d.reason <;> rfl
    simp only [frameOfBody, frameKind, frameBody, List.map_append, map_field1 hseq, map_field1 htarget, map_field1 htargetSeq,
      map_field1 hreason, List.cons_append, List.nil_append, Nat.ne_of_gt hpositive, if_false]
    obtain ⟨seq, target, targetSeq, reason⟩ := d
    cases reason <;> rfl

/-! ### The check (R5) -/

theorem crcBit_lt (reg : Nat) (bit : Bool) : crcBit reg bit < 65536 := by
  have hshifted : reg * 2 % 65536 < 2 ^ 16 := Nat.mod_lt _ (by decide)
  unfold crcBit
  dsimp only
  split
  · exact Nat.xor_lt_two_pow hshifted (by decide)
  · exact hshifted

theorem crc16_lt (bytes : List Byte) : crc16 bytes < 65536 :=
  List.foldlRecOn (motive := fun reg => reg < 65536) bytes crcByte (by decide) fun _ _ _ _ => crcBit_lt _ _

/-- The two check bytes give the check (R5). -/
theorem numberOf_check (h : n < 65536) : numberOf [byteOf (n / 256), byteOf n] = n := by
  show (0 * 256 + _) * 256 + _ = n
  rw [Nat.zero_mul, Nat.zero_add]
  exact numberOf_field2 h

/-- The check that station `n` sends with a frame. -/
def checkSent (n : Nat) (f : Frame) : Nat :=
  crc16 ([byteOf (frameKindCode (frameKind f) * 16 + n), byteOf (frameKindLength (frameKind f))] ++ frameBody f)

/-- What the receiver holds of a frame after its header, and at its second check character. -/
def begunFrame (n : Nat) (f : Frame) : RxFrame := { kind := frameKind f, sender := n, length := none, body := [], check := [] }

def wholeFrame (n : Nat) (f : Frame) : RxFrame :=
  { kind := frameKind f, sender := n, length := some (frameKindLength (frameKind f)), body := frameBody f,
    check := [byteOf (checkSent n f / 256), byteOf (checkSent n f)] }

theorem rxFrame_wholeFrame (n : Nat) (h : f.wf = true) : rxFrame (wholeFrame n f) = some f := by
  have hlength : (wholeFrame n f).body.length = frameKindLength (wholeFrame n f).kind := frameBody_length f
  refine (if_pos ⟨hlength, ?_⟩).trans (frameOfBody_frameBody h)
  rw [hlength]
  exact numberOf_check (crc16_lt _)

/-! ### A frame taken character by character (R8 to R10) -/

theorem feed_cons {c : Instr} {rows : List Instr} (h : exec c s = .next t) : feed (c :: rows) s = feed rows t := by
  simp only [feed, h]

/-- The state that has seen the line high and whose receiver holds this. -/
def receiving (r : Receiver) (s : State) : State := (setLine false s).onLau fun l => { l with receiver := r }

theorem receiving_idem (r q : Receiver) (s : State) : receiving r (receiving q s) = receiving r s := rfl

section Characters

variable {g : RxFrame} {q : Receiver}

/-- A character that the receiver takes without a report. -/
theorem exec_receiving (hw : s.working = true) (hs : s.Settled) {d : Byte} {flag : Bool} {r : Receiver}
    (h : rxCharacter d flag false (receiving q s) = (receiving r s, [])) :
    exec (.rxCharacter d flag false) (receiving q s) = .next (receiving r s) :=
  exec_rxCharacter_calm (s := receiving q s) hw (settled_of_calm hs rfl) h rfl

theorem rxCharacter_body {d : Byte} {total : Nat} (hlen : g.length = some total) :
    rxCharacter d false false (receiving (.body g) s) = (receiving (if g.body.length + 1 < total
      then .body { g with body := g.body ++ [d] } else .check { g with body := g.body ++ [d] }) s, []) :=
  (rxCharacter_of_body rfl).trans ((if_neg (by simp)).trans (rxBody_data hlen))

theorem feed_body (hw : s.working = true) (hs : s.Settled) {total : Nat} (rows : List Instr) (data : List Byte) :
    ∀ {g : RxFrame}, g.length = some total → data ≠ [] → g.body.length + data.length = total →
      feed (data.map (fun d => Instr.rxCharacter d false false) ++ rows) (receiving (.body g) s)
        = feed rows (receiving (.check { g with body := g.body ++ data }) s) := by
  induction data with
  | nil => exact fun _ hne => absurd rfl hne
  | cons d rest ih =>
    intro g hlen _ htotal
    rw [List.length_cons] at htotal
    refine (feed_cons (exec_receiving hw hs (rxCharacter_body hlen))).trans ?_
    cases rest with
    | nil => rw [if_neg (by simp at htotal; omega)]; rfl
    | cons e rest =>
      rw [if_pos (by rw [List.length_cons] at htotal; omega)]
      refine (ih (g := { g with body := g.body ++ [d] }) hlen (by simp) (by simp at htotal ⊢; omega)).trans ?_
      simp

end Characters

theorem frameKindOfCode_frameKindCode (k : FrameKind) : frameKindOfCode (frameKindCode k) = some k := by cases k <;> rfl

theorem frameKindLength_range (k : FrameKind) : 0 < frameKindLength k ∧ frameKindLength k ≤ 20 := by cases k <;> decide

/-- The header of a frame names its kind and its sender (R3). -/
theorem header_fields (k : FrameKind) (hn : n ≤ 15) : (byteOf (frameKindCode k * 16 + n)).toNat / 16 = frameKindCode k
    ∧ (byteOf (frameKindCode k * 16 + n)).toNat % 16 = n := by
  have hcode : frameKindCode k ≤ 5 := by cases k <;> decide
  rw [toNat_byteOf]
  omega

theorem frameRows_eq (n : Nat) (f : Frame) : frameRows n f =
    .rxCharacter (byteOf (frameKindCode (frameKind f) * 16 + n)) true false
      :: .rxCharacter (byteOf (frameKindLength (frameKind f))) false false
      :: ((frameBody f).map (fun d => Instr.rxCharacter d false false)
        ++ (wholeFrame n f).check.map fun d => Instr.rxCharacter d false false) :=
  congrArg (fun rows => _ :: _ :: rows) List.map_append

theorem frameEnd_receiving (f : Frame) (r : Receiver) (s : State) : frameEnd f (receiving r s) = frameEnd f s := by
  rw [frameEnd_eq, frameEnd_eq]
  rfl

theorem deliver_receiving (hother : n ≠ s.conf.station) (f : Frame) (r : Receiver) :
    deliver n f (receiving r s) = deliver n f s := by
  rw [deliver, deliver, frameEnd_receiving, if_neg hother, if_neg (show n ≠ (receiving r s).conf.station from hother)]

/-- The two check characters of a frame of another station. -/
theorem feed_check (hwf : f.wf = true) (hother : n ≠ s.conf.station) (hw : s.working = true) (hs : s.Settled) :
    feed ((wholeFrame n f).check.map fun d => Instr.rxCharacter d false false)
      (receiving (.check { wholeFrame n f with check := [] }) s) = exec (deliveredRow n f) s := by
  have hfirst : rxCharacter (byteOf (checkSent n f / 256)) false false (receiving (.check { wholeFrame n f with check := [] }) s)
      = (receiving (.check { wholeFrame n f with check := [byteOf (checkSent n f / 256)] }) s, []) :=
    (rxCharacter_of_check rfl).trans ((if_neg (by simp)).trans (rxCheck_first (f := { wholeFrame n f with check := [] }) rfl))
  have hsecond : exec (.rxCharacter (byteOf (checkSent n f)) false false)
      (receiving (.check { wholeFrame n f with check := [byteOf (checkSent n f / 256)] }) s)
      = .next (react (deliver n f s)) := by
    refine (exec_of_complete (s := receiving _ s) hw rfl rfl (rxFrame_wholeFrame n hwf)).trans ?_
    rw [if_neg (fun h => hother h.1)]
    exact congrArg (fun e => Host.Outcome.next (react e)) (deliver_receiving hother f _)
  rw [exec_deliveredRow hw]
  exact (feed_cons (exec_receiving hw hs hfirst)).trans (feed_cons hsecond)

/-- A frame of another station, taken from SYNC, is delivered. -/
theorem feed_frameRows (hwf : f.wf = true) (hpos : 1 ≤ n) (hn : n ≤ 15) (hother : n ≠ s.conf.station) (hw : s.working = true)
    (hs : s.Settled) {w : Bool} (hsync : s.lau.receiver = .sync w) : feed (frameRows n f) s = exec (deliveredRow n f) s := by
  obtain ⟨hcode, hsender⟩ := header_fields (frameKind f) hn
  obtain ⟨hlengthPos, hlengthLe⟩ := frameKindLength_range (frameKind f)
  have hlength : (byteOf (frameKindLength (frameKind f))).toNat = frameKindLength (frameKind f) := by
    rw [toNat_byteOf]
    omega
  have hheader : exec (.rxCharacter (byteOf (frameKindCode (frameKind f) * 16 + n)) true false) s
      = .next (receiving (.body (begunFrame n f)) s) := by
    refine exec_rxCharacter_calm hw hs ((rxCharacter_of_sync hsync).trans (congrArg (·, []) ((if_neg (by simp)).trans ?_))) rfl
    rw [rxHeader_of_good (by rw [hcode]; exact frameKindOfCode_frameKindCode _) (by rw [hsender]; omega), hsender]
    rfl
  have hsecond : rxCharacter (byteOf (frameKindLength (frameKind f))) false false (receiving (.body (begunFrame n f)) s)
      = (receiving (.body { begunFrame n f with length := some (frameKindLength (frameKind f)) }) s, []) := by
    refine (rxCharacter_of_body rfl).trans ((if_neg (by simp)).trans ((rxBody_length rfl (by rw [hlength]; exact hlengthLe)).trans ?_))
    rw [hlength, if_neg (by omega)]
    rfl
  have hbody := feed_body (g := { begunFrame n f with length := some (frameKindLength (frameKind f)) }) hw hs
    ((wholeFrame n f).check.map fun d => Instr.rxCharacter d false false) (frameBody f) rfl
    (List.ne_nil_of_length_pos (by rw [frameBody_length]; exact hlengthPos)) (by rw [frameBody_length]; exact Nat.zero_add _)
  rw [frameRows_eq, feed_cons hheader, feed_cons (exec_receiving hw hs hsecond), hbody]
  exact feed_check hwf hother hw hs

/-- Settles O58: the bits by character, the body by its fields, and the frame taken character by character. -/
theorem framesAreReadAsTheyWereSent : Obligations.FramesAreReadAsTheyWereSent := by
  intro f hwf
  refine ⟨fun n => ⟨frameBits_length n f, fun i hi => frameBits_break n f hi, fun k b hk => ⟨?_, fun i hi => ?_, ?_, ?_⟩⟩,
    fun s => slDeLine_of_sent, fun s => slDeLine_of_silent, fun s => ⟨rfl, rfl⟩, frameBody_length f, frameOfBody_frameBody hwf,
    fun n s hpos hn hother hw hs ⟨w, hsync⟩ => feed_frameRows hwf hpos hn hother hw hs hsync⟩
  · exact (frameBits_character (i := 0) (by decide) hk).trans (charBits_start _ b)
  · rw [Nat.add_assoc _ 1 i]
    exact (frameBits_character (by omega) hk).trans (charBits_data _ b hi)
  · exact (frameBits_character (by decide) hk).trans (charBits_flag _ b)
  · exact (frameBits_character (by decide) hk).trans (charBits_stop _ b)

end Sys2Proof.Proofs
end
